-- ==== Sys2Proof/Word.lean ====
section
/-! DEFINITION. The word types of the machine (spec/00_scope.md R6, R7: bit 0 is the least significant bit,
every value is unsigned). -/

namespace Sys2Proof

/-- An 8-bit value: a register, a timer, a byte of memory (10_state.md R13, R23, R25). -/
abbrev Byte := BitVec 8

/-- A 16-bit value: an opcode, `I`, `pc`, a stack entry (10_state.md R16, R17, R21). -/
abbrev Word := BitVec 16

/-- A register number, the 4-bit x or y field of an opcode (00_scope.md R9). -/
abbrev Reg := BitVec 4

end Sys2Proof
end

