-- ==== Sys2Proof/Machine/HostEvent.lean ====
section
/-! DEFINITION. The host's events (spec/00_scope.md R10, spec/70_reset_and_hazards.md R170). -/

namespace Sys2Proof.Machine

/-- The host's events, each atomic (00_scope.md R10, 10_state.md R30). -/
inductive HostEvent where
  /-- Return the core to the reset state (70_reset_and_hazards.md R160). -/
  | reset
  /-- Load the font and the ROM image and reset the core, as before a run (70_reset_and_hazards.md R162). -/
  | preload (font : Vector Byte 80) (image : List Byte)
  /-- A new keypad mask (10_state.md R26). -/
  | keys (mask : BitVec 16)
  /-- Decrement the timers (60_exceptions.md R141). -/
  | timerTick
  /-- Execute one opcode (30_encoding.md R63). -/
  | instrTick
deriving DecidableEq, Repr, Inhabited

end Sys2Proof.Machine
end

