-- ==== Sys2Proof/Config.lean ====
section
/-! DEFINITION. The parameters of this hardware (spec/00_scope.md R4) and the free values: the values the spec
leaves open and no rule constrains (spec/93_implementation_defined.md). -/

namespace Sys2Proof.Config

/-- `MEM_SIZE`: addresses 0 to 4095 (00_scope.md R4). -/
def memSize : Nat := 4096

/-- `ROM_BASE`, where the image is loaded and the first opcode is fetched (00_scope.md R4, 10_state.md R34). -/
def romBase : Nat := 0x200

/-- `FONT_BASE`, where the font glyphs lie (00_scope.md R4). -/
def fontBase : Nat := 0x50

/-- `FONT_GLYPH_BYTES`, the bytes of one glyph (00_scope.md R4). -/
def glyphBytes : Nat := 5

/-- `STACK_CAP`, the entries of the call stack (00_scope.md R4, 10_state.md R21). -/
def stackCap : Nat := 16

/-- The longest ROM image that fits, 4096 - 512 bytes (20_memory.md R56). -/
def maxImage : Nat := memSize - romBase

/-- `DISP_W` of `State.reset`. PRESUMED (log 10, unsafe): the spec leaves it open and gives 64 as customary. -/
def customaryWidth : Nat := 64

/-- `DISP_H` of `State.reset`. PRESUMED (log 10, unsafe): the spec leaves it open and gives 32 as customary. -/
def customaryHeight : Nat := 32

/-- `MEM_INIT`: what the memory of preload number `epoch` holds at an address nothing has written (10_state.md R34,
93_implementation_defined.md U8: arbitrary and fixed for a run). A free value (log 4, safe). -/
opaque memInit : (epoch addr : Nat) → Byte

/-- The `index`-th byte the random source delivers (43_alu.md R112, 60_exceptions.md R152: under no law). A free
value (log 5, safe). -/
opaque randomByte : (index : Nat) → Byte

/-- A word whose value after a reset event the spec leaves unspecified: a stack entry, `FAULT_PC`, `FAULT_OP`
(10_state.md R34). A free value (log 6, safe). -/
opaque unspecifiedWord : (index : Nat) → Word

/-- Whether a pixel is on after the reset that draws free value number `index`, 0 for `State.reset`
(60_exceptions.md R149: open). A free value (logs 6 and 12, safe). -/
opaque pixelAfterReset : (index row col : Nat) → Bool

/-- The event the host sends as its `index`-th when nothing is scheduled: any event, so that every sequence of events
is possible (70_reset_and_hazards.md R170; 93_implementation_defined.md U15, U16). A free value (log 1, safe). -/
opaque freeEvent : (index : Nat) → Machine.HostEvent

end Sys2Proof.Config
end

