-- ==== Sys2Proof/Machine/Display.lean ====
section
/-! DEFINITION. The display surface as data, and its open content at reset (spec/60_exceptions.md R146, R149). -/

namespace Sys2Proof.Machine

/-- The display surface, an attached device (60_exceptions.md R146). -/
structure Display where
  /-- `DISP_W`, an open parameter. -/
  width : Nat
  /-- `DISP_H`, an open parameter. -/
  height : Nat
  /-- The pixels that are on, as (row, column), rising by row and then by column, each once. -/
  lit : List (Nat × Nat)
deriving DecidableEq, Repr

/-- Every pixel of the surface, row by row. -/
def Display.grid (d : Display) : List (Nat × Nat) :=
  (List.range d.height).flatMap fun r => (List.range d.width).map fun c => (r, c)

/-- The surface after a core reset: its size as before, its content open (60_exceptions.md R149; logs 6 and 12). -/
def Display.afterReset (d : Display) (k : Nat) : Display :=
  { d with lit := d.grid.filter fun p => Config.pixelAfterReset k p.1 p.2 }

end Sys2Proof.Machine
end

