-- ==== Sys2Proof/Machine/State.lean ====
section
/-! DEFINITION. The state of the machine as plain data (spec/10_state.md R13 to R35), the reasons a step can stop,
the core's outputs, and the state right after reset. -/

namespace Sys2Proof.Machine

/-- Why the machine stops for good. No instruction and no tick raises one: the four fault conditions of
60_exceptions.md R131 end in a next state with the fault latch set (`Cause`). -/
inductive Fault where
  /-- Raised by the host event `preload` alone: the ROM image is longer than 3584 bytes, so the load fails and the
  core is never started (20_memory.md R56). Safe: the spec itself ends the run here. -/
  | imageTooLong (length : Nat)
deriving DecidableEq, Repr

/-- Why an instruction has no meaning in the model. -/
inductive Refusal where
  /-- Raised by an arm of `exec` whose instruction has no meaning yet. Safe: nothing is claimed of it. No arm of
  this model does so. -/
  | notModelled (mnemonic : String)
deriving DecidableEq, Repr

/-- The causes of the fault latch (60_exceptions.md R131). -/
inductive Cause where
  /-- A call with 16 entries in use. -/
  | stackOverflow
  /-- A return with no entry in use. -/
  | stackUnderflow
  /-- A memory instruction whose last byte lies beyond address 4095. -/
  | dataAddress
  /-- A fetch with `pc` at or beyond 4095. -/
  | fetchAddress
deriving DecidableEq, Repr

/-- The straps, fixed at construction; no event changes them (00_scope.md R5, 10_state.md R27). -/
structure Straps where
  /-- true: 8xy6 and 8xyE shift Vy (legacy). -/
  shiftUsesVy : Bool
  /-- true: Bnnn adds Vx (modern); false: V0 (legacy). -/
  jumpAddsVx : Bool
  /-- true: Fx55 and Fx65 move I (legacy). -/
  storeShiftsI : Bool
deriving DecidableEq, Repr

/-- What the core sends out (10_state.md R31). -/
inductive Output where
  /-- The display command of 00E0. -/
  | dispClear
  /-- The display command of Dxyn. -/
  | dispDraw (x y : Byte) (rows : List Byte) (height : Byte)
  /-- The diagnostic for an unrecognized opcode (30_encoding.md R68). -/
  | diag (addr opcode : Word)
deriving DecidableEq, Repr

/-- The whole state: the core's registers, stack, timers, memory and fault latch (10_state.md), its straps and
inputs, the attached display, and the model's own fields. -/
structure State where
  /-- The 16 general registers; V[15] is VF (R13, R14). -/
  V : Vector Byte 16
  /-- The index register (R16). -/
  I : Word
  /-- The program counter (R17). -/
  pc : Word
  /-- The 16 call-stack entries (R21). -/
  STK : Vector Word 16
  /-- The number of stack entries in use, 0 to 16 (R21, R27). -/
  SP : Fin 17
  /-- The delay timer (R23). -/
  DT : Byte
  /-- The sound timer (R24). -/
  ST : Byte
  /-- The bytes of memory that were written, addresses rising (R25; log 4). -/
  MEM : List Host.Cell
  /-- The number of the preload that memory holds; it selects the free `MEM_INIT` (log 4). The model's own. -/
  memEpoch : Nat
  /-- The fault latch, `none` when FAULT = 0 (R29). -/
  FAULT : Option Cause
  /-- The address of the faulting opcode (R29). -/
  FAULT_PC : Word
  /-- The faulting opcode, 0 for a fetch fault (R29). -/
  FAULT_OP : Word
  /-- The three straps (R27). -/
  straps : Straps
  /-- The keypad mask the host presents, bit i = key i pressed (R26). -/
  KEYS : BitVec 16
  /-- The attached display surface (60_exceptions.md R146). -/
  display : Display
  /-- The host's coming events, next first; when none is left, free events follow (log 1). The model's own. -/
  schedule : List HostEvent
  /-- The number of events performed; it selects the free event (log 1). The model's own. -/
  eventIndex : Nat
  /-- The outputs of the event just performed (R31; log 13). The model's own. -/
  out : List Output
  /-- The index of the next free value (logs 5 and 6). The model's own. -/
  freeIndex : Nat
deriving DecidableEq, Repr

/-- The machine right after reset (10_state.md R34). `STK`, `FAULT_PC`, `FAULT_OP` (log 7), the straps (log 8),
`KEYS` (log 9) and the model's own fields (logs 1, 4, 5, 13) have no reset value in the spec: DESIGN CHOICE; the
display's size (log 10) is PRESUMED; unsafe. The pixels are free values (60_exceptions.md R149; log 12). -/
def State.reset : State where
  V := Vector.replicate 16 0
  I := 0
  pc := BitVec.ofNat 16 Config.romBase
  STK := Vector.replicate 16 0
  SP := 0
  DT := 0
  ST := 0
  MEM := []
  memEpoch := 0
  FAULT := none
  FAULT_PC := 0
  FAULT_OP := 0
  straps := { shiftUsesVy := false, jumpAddsVx := true, storeShiftsI := false }
  KEYS := 0
  display := Display.afterReset { width := Config.customaryWidth, height := Config.customaryHeight, lit := [] } 0
  schedule := []
  eventIndex := 0
  out := []
  freeIndex := 1

end Sys2Proof.Machine
end

