-- ==== Sys2Proof/Machine/Ops.lean ====
section
/-! DEFINITION. The named operations over registers, memory, stack, latch and random source (spec/00_scope.md R8). -/

namespace Sys2Proof.Machine

/-! ### Registers -/

/-- `V[x]`: read of a general register (10_state.md R13). -/
def State.getV (s : State) (x : Reg) : Byte := s.V[x.toNat]'x.isLt

/-- `V[x] <- b`: write of a general register; none is hardwired (10_state.md R13). -/
def State.setV (s : State) (x : Reg) (b : Byte) : State := { s with V := s.V.set x.toNat b x.isLt }

/-- The number of VF, the register that doubles as the flag (10_state.md R14). -/
abbrev VF : Reg := 15

/-- `I <- v` (10_state.md R16). -/
def State.setI (s : State) (v : Word) : State := { s with I := v }

/-- `pc <- target` (10_state.md R17). -/
def State.setPc (s : State) (target : Word) : State := { s with pc := target }

/-- `pc <- (pc + 2) mod 65536`: the advance before dispatch, and a taken skip (30_encoding.md R63, 42_skip.md R96). -/
def State.advance (s : State) : State := s.setPc (s.pc + 2)

/-- Step over one instruction if the condition holds (42_skip.md R96). -/
def State.skipIf (s : State) (c : Bool) : State := if c then s.advance else s

/-- `DT <- b` (10_state.md R23). -/
def State.setDT (s : State) (b : Byte) : State := { s with DT := b }

/-- `ST <- b` (10_state.md R24). -/
def State.setST (s : State) (b : Byte) : State := { s with ST := b }

/-! ### Memory -/

/-- The byte listed for an address; `none` where nothing was written. -/
def Memory.lookup : List Host.Cell → Nat → Option Byte
  | [], _ => none
  | (k, b) :: m, a => if k = a then some b else Memory.lookup m a

/-- Write one byte, keeping the addresses rising and each listed once. -/
def Memory.write : List Host.Cell → Nat → Byte → List Host.Cell
  | [], a, b => [(a, b)]
  | (k, c) :: m, a, b =>
    if a < k then (a, b) :: (k, c) :: m
    else if a = k then (a, b) :: m
    else (k, c) :: Memory.write m a b

/-- The canonical form of memory: addresses strictly rising, all of them in the address space (20_memory.md R40).
An unlisted address holds no written byte, so no entry can repeat what an unlisted address holds (log 4). -/
abbrev Memory.wf (m : List Host.Cell) : Prop :=
  m.Pairwise (fun c d => c.1 < d.1) ∧ ∀ c ∈ m, c.1 < Config.memSize

/-- `MemRead(addr, 1)`, 0 to 4095: the latest byte written, else `MEM_INIT` (20_memory.md R47; log 4). -/
def State.memRead (s : State) (a : Nat) : Byte := (Memory.lookup s.MEM a).getD (Config.memInit s.memEpoch a)

/-- `MemWrite(addr, 1, b)`, 0 to 4095 (00_scope.md R8). -/
def State.memWrite (s : State) (a : Nat) (b : Byte) : State := { s with MEM := Memory.write s.MEM a b }

/-- The `k` bytes from address `a`, ascending (20_memory.md R44). -/
def State.readBytes (s : State) (a k : Nat) : List Byte := (List.range k).map fun r => s.memRead (a + r)

/-- Store bytes from address `a`, ascending (20_memory.md R44). -/
def State.writeBytes (s : State) (a : Nat) : List Byte → State
  | [] => s
  | b :: bs => (s.memWrite a b).writeBytes (a + 1) bs

/-- The bounds check of an instruction that accesses the `k` bytes from `I`: on unbounded integers, none for an
empty access (20_memory.md R48). -/
def State.beyondMemory (s : State) (k : Nat) : Bool := decide (1 ≤ k ∧ s.I.toNat + k - 1 > 4095)

/-- `V[0..x]`, ascending (44_index_memory.md R118). -/
def State.regsUpTo (s : State) (x : Reg) : List Byte :=
  (List.range (x.toNat + 1)).map fun k => s.getV (BitVec.ofNat 4 k)

/-- Load registers from number `k` on, ascending (44_index_memory.md R119). -/
def State.setRegsFrom (s : State) (k : Nat) : List Byte → State
  | [] => s
  | b :: bs => (s.setV (BitVec.ofNat 4 k) b).setRegsFrom (k + 1) bs

/-- The post-increment of `I` in the legacy dialect (44_index_memory.md R118, R119). -/
def State.shiftI (s : State) (k : Nat) : State :=
  if s.straps.storeShiftsI then s.setI (s.I + BitVec.ofNat 16 k) else s

/-! ### Call stack -/

/-- Replace the stack's entries and the count in use (10_state.md R21). -/
def State.setStack (s : State) (stk : Vector Word 16) (sp : Fin 17) : State := { s with STK := stk, SP := sp }

/-- `Push(v)`; `none` when 16 entries are in use (10_state.md R22). -/
def State.push (s : State) (v : Word) : Option State :=
  if h : s.SP.val < 16 then
    some (s.setStack (s.STK.set s.SP.val v h) ⟨s.SP.val + 1, by omega⟩)
  else none

/-- `Pop()`: the entry and the state after; `none` when no entry is in use (10_state.md R22). -/
def State.pop (s : State) : Option (Word × State) :=
  if h : 0 < s.SP.val then
    some (s.STK[s.SP.val - 1]'(by have := s.SP.isLt; omega), s.setStack s.STK ⟨s.SP.val - 1, by omega⟩)
  else none

/-! ### Outputs and the random source -/

/-- Send an output (10_state.md R31). -/
def State.emit (s : State) (o : Output) : State := { s with out := s.out ++ [o] }

/-- `Diag(addr, opcode)` (30_encoding.md R68). -/
def State.diag (s : State) (addr opcode : Word) : State := s.emit (.diag addr opcode)

/-- Move on to another index of the free values. -/
def State.setFreeIndex (s : State) (k : Nat) : State := { s with freeIndex := k }

/-- `Rand()`: the byte this tick's random input delivers (43_alu.md R112; log 5). -/
def State.rand (s : State) : Byte := Config.randomByte s.freeIndex

/-- The random input is consumed: the next draw is another free value. -/
def State.randUsed (s : State) : State := s.setFreeIndex (s.freeIndex + 1)

/-- The level of the sound gate output (60_exceptions.md R143). -/
def State.soundActive (s : State) : Bool := decide (s.ST.toNat > 0)

/-! ### Faults: taking one, and the reset that ends the fault state -/

/-- The cause code of `FAULT` (60_exceptions.md R131). -/
def Cause.code : Cause → BitVec 3
  | .stackOverflow => 1
  | .stackUnderflow => 2
  | .dataAddress => 3
  | .fetchAddress => 4

/-- The 3-bit value of `FAULT`, 0 when there is no fault (10_state.md R27). -/
def State.faultCode (s : State) : BitVec 3 :=
  match s.FAULT with
  | none => 0
  | some c => c.code

/-- The latch of a fault (60_exceptions.md R133, 10_state.md R29). -/
def State.latchFault (s : State) (c : Cause) (addr opcode : Word) : State :=
  { s with FAULT := some c, FAULT_PC := addr, FAULT_OP := opcode }

/-- TAKING A FAULT (60_exceptions.md R133): `s` is the state before the tick, `pc` still at the opcode; the tick
commits nothing and the latch takes the cause, the address and the opcode. -/
def raiseFault (s : State) (c : Cause) (opcode : Word) : Host.Outcome State Fault Refusal :=
  .next (s.latchFault c s.pc opcode)

/-- THE WAY OUT OF THE FAULT STATE, the reset event (70_reset_and_hazards.md R160, 60_exceptions.md R134): every
piece of core state at its value of 10_state.md R34; memory, straps and keypad mask stay; what R34 leaves
unspecified takes free values (log 6). -/
def State.resetCore (s : State) : State :=
  { s with
    V := Vector.replicate 16 0
    I := 0
    pc := BitVec.ofNat 16 Config.romBase
    STK := Vector.ofFn fun k => Config.unspecifiedWord (s.freeIndex + k.val)
    SP := 0
    DT := 0
    ST := 0
    FAULT := none
    FAULT_PC := Config.unspecifiedWord (s.freeIndex + 16)
    FAULT_OP := Config.unspecifiedWord (s.freeIndex + 17)
    display := s.display.afterReset s.freeIndex
    freeIndex := s.freeIndex + 18 }

end Sys2Proof.Machine
end

