-- ==== Sys2Proof/Machine/Flags.lean ====
section
/-! DEFINITION. The flag computations and the order in which a result and its flag are written
(spec/43_alu.md R109, R110; spec/10_state.md R14). -/

namespace Sys2Proof.Machine

/-- A flag as VF holds it: 0 or 1 (10_state.md R14). -/
def flagByte (f : Bool) : Byte := if f then 1 else 0

/-- Carry out of bit 7: the exact sum exceeds 255 (43_alu.md R104). -/
def carry (a b : Byte) : Bool := decide (a.toNat + b.toNat > 255)

/-- No borrow in `a - b`: `a >= b`, equal operands included (43_alu.md R105, R107). -/
def noBorrow (a b : Byte) : Bool := decide (a.toNat ≥ b.toNat)

/-- The bit a right shift by one moves out (43_alu.md R106). -/
def shiftedOutRight (a : Byte) : Bool := a.getLsbD 0

/-- The bit a left shift by one moves out (43_alu.md R108). -/
def shiftedOutLeft (a : Byte) : Bool := a.getLsbD 7

/-- Write the result to V[x], then the flag to VF (43_alu.md R110). -/
def State.setResultThenFlag (s : State) (x : Reg) (result : Byte) (f : Bool) : State :=
  (s.setV x result).setV VF (flagByte f)

end Sys2Proof.Machine
end

