-- ==== Sys2Proof/Machine/Operands.lean ====
section
/-! DEFINITION. The operand forms that are more than a field or a register (spec/30_encoding.md R65). -/

namespace Sys2Proof.Machine

/-- An address operand nnn, zero-extended to the width of `pc` and `I` (30_encoding.md R65). -/
def addr16 (nnn : BitVec 12) : Word := nnn.setWidth 16

/-- The low four bits of a register, a key number or a digit (42_skip.md R94, 44_index_memory.md R116). -/
def lowNibble (b : Byte) : Nat := (b &&& 0x0F#8).toNat

/-- `Key(k)`: whether key k is pressed in the mask of this tick (10_state.md R26). -/
def State.keyDown (s : State) (k : Nat) : Bool := s.KEYS.getLsbD k

/-- The least pressed key, if any is (45_timer_key.md R122). -/
def lowestKey (mask : BitVec 16) : Option Nat := (List.range 16).find? fun k => mask.getLsbD k

/-- The value 8xy6 and 8xyE shift: Vy in the legacy dialect, Vx in the modern one (43_alu.md R106, R108). -/
def State.shiftOperand (s : State) (x y : Reg) : Byte := if s.straps.shiftUsesVy then s.getV y else s.getV x

/-- The register number in the top nibble of nnn (41_control_flow.md R88). -/
def topNibble (nnn : BitVec 12) : Reg := nnn.extractLsb' 8 4

/-- The offset of Bnnn: Vx in the modern dialect, V0 in the legacy one (41_control_flow.md R88). -/
def State.jumpOffset (s : State) (nnn : BitVec 12) : Byte :=
  if s.straps.jumpAddsVx then s.getV (topNibble nnn) else s.getV 0

/-- The address of the glyph of a digit, `FONT_BASE + digit * 5` (44_index_memory.md R116). -/
def glyphAddress (digit : Nat) : Word := BitVec.ofNat 16 (Config.fontBase + digit * Config.glyphBytes)

/-- The decimal digits of a byte, hundreds first, one per byte (44_index_memory.md R117). -/
def decimalDigits (b : Byte) : List Byte :=
  [BitVec.ofNat 8 (b.toNat / 100), BitVec.ofNat 8 (b.toNat / 10 % 10), BitVec.ofNat 8 (b.toNat % 10)]

end Sys2Proof.Machine
end

