-- ==== Sys2Proof/Machine/Alu.lean ====
section
/-! DEFINITION. Register load, arithmetic, logic, shift and random: 6xnn, 7xnn, 8xy0 to 8xyE, Cxnn
(spec/43_alu.md). A meaning takes the state before the tick, `pc` at the opcode; it advances `pc` first
(spec/30_encoding.md R63). Addition and subtraction of `Byte` wrap modulo 256 (R109). -/

namespace Sys2Proof.Machine

/-- 6xnn (43_alu.md R98). -/
def execLdImm (x : Reg) (nn : Byte) (s : State) : Host.Outcome State Fault Refusal := .next (s.advance.setV x nn)

/-- 7xnn (43_alu.md R99): no flag. -/
def execAddImm (x : Reg) (nn : Byte) (s : State) : Host.Outcome State Fault Refusal :=
  .next (s.advance.setV x (s.getV x + nn))

/-- 8xy0 (43_alu.md R100). -/
def execLdReg (x y : Reg) (s : State) : Host.Outcome State Fault Refusal := .next (s.advance.setV x (s.getV y))

/-- 8xy1 (43_alu.md R101): no flag. -/
def execOrReg (x y : Reg) (s : State) : Host.Outcome State Fault Refusal :=
  .next (s.advance.setV x (s.getV x ||| s.getV y))

/-- 8xy2 (43_alu.md R102): no flag. -/
def execAndReg (x y : Reg) (s : State) : Host.Outcome State Fault Refusal :=
  .next (s.advance.setV x (s.getV x &&& s.getV y))

/-- 8xy3 (43_alu.md R103): no flag. -/
def execXorReg (x y : Reg) (s : State) : Host.Outcome State Fault Refusal :=
  .next (s.advance.setV x (s.getV x ^^^ s.getV y))

/-- 8xy4 (43_alu.md R104): the sum, then the carry. -/
def execAddReg (x y : Reg) (s : State) : Host.Outcome State Fault Refusal :=
  .next (s.advance.setResultThenFlag x (s.getV x + s.getV y) (carry (s.getV x) (s.getV y)))

/-- 8xy5 (43_alu.md R105): Vx - Vy, then no-borrow. -/
def execSubReg (x y : Reg) (s : State) : Host.Outcome State Fault Refusal :=
  .next (s.advance.setResultThenFlag x (s.getV x - s.getV y) (noBorrow (s.getV x) (s.getV y)))

/-- 8xy6 (43_alu.md R106): right shift by one, then the bit shifted out. -/
def execShr (x y : Reg) (s : State) : Host.Outcome State Fault Refusal :=
  let v := s.shiftOperand x y
  .next (s.advance.setResultThenFlag x (v >>> 1) (shiftedOutRight v))

/-- 8xy7 (43_alu.md R107): Vy - Vx, then no-borrow. -/
def execSubnReg (x y : Reg) (s : State) : Host.Outcome State Fault Refusal :=
  .next (s.advance.setResultThenFlag x (s.getV y - s.getV x) (noBorrow (s.getV y) (s.getV x)))

/-- 8xyE (43_alu.md R108): left shift by one, then the bit shifted out. -/
def execShl (x y : Reg) (s : State) : Host.Outcome State Fault Refusal :=
  let v := s.shiftOperand x y
  .next (s.advance.setResultThenFlag x (v <<< 1) (shiftedOutLeft v))

/-- Cxnn (43_alu.md R112): the tick's random byte, masked. -/
def execRnd (x : Reg) (nn : Byte) (s : State) : Host.Outcome State Fault Refusal :=
  .next (s.advance.randUsed.setV x (s.rand &&& nn))

end Sys2Proof.Machine
end

