-- ==== Sys2Proof/Syntax.lean ====
section
/-! DEFINITION. The instructions: one constructor per row of spec/opcode_table.json, in the table's order
(spec/30_encoding.md R66). Fields are those of R61; the docstring of a constructor gives its pattern and rule. -/

namespace Sys2Proof

/-- The 34 instructions of 30_encoding.md R66. -/
inductive Instr where
  /-- 00E0, clear the display (40_display.md R80). -/
  | cls
  /-- 00EE, return from subroutine (41_control_flow.md R85). -/
  | ret
  /-- 1nnn, jump (41_control_flow.md R86). -/
  | jp (nnn : BitVec 12)
  /-- 2nnn, call subroutine (41_control_flow.md R87). -/
  | call (nnn : BitVec 12)
  /-- 3xnn, skip if Vx = nn (42_skip.md R90). -/
  | seImm (x : Reg) (nn : Byte)
  /-- 4xnn, skip if Vx differs from nn (42_skip.md R91). -/
  | sneImm (x : Reg) (nn : Byte)
  /-- 5xy0, skip if Vx = Vy (42_skip.md R92). -/
  | seReg (x y : Reg)
  /-- 6xnn, load immediate (43_alu.md R98). -/
  | ldImm (x : Reg) (nn : Byte)
  /-- 7xnn, add immediate, no flag (43_alu.md R99). -/
  | addImm (x : Reg) (nn : Byte)
  /-- 8xy0, copy register (43_alu.md R100). -/
  | ldReg (x y : Reg)
  /-- 8xy1, bitwise OR (43_alu.md R101). -/
  | orReg (x y : Reg)
  /-- 8xy2, bitwise AND (43_alu.md R102). -/
  | andReg (x y : Reg)
  /-- 8xy3, bitwise exclusive OR (43_alu.md R103). -/
  | xorReg (x y : Reg)
  /-- 8xy4, add with carry flag (43_alu.md R104). -/
  | addReg (x y : Reg)
  /-- 8xy5, subtract, flag = no borrow (43_alu.md R105). -/
  | subReg (x y : Reg)
  /-- 8xy6, shift right by one; y matters only when `shiftUsesVy` (43_alu.md R106). -/
  | shr (x y : Reg)
  /-- 8xy7, reverse subtract, flag = no borrow (43_alu.md R107). -/
  | subnReg (x y : Reg)
  /-- 8xyE, shift left by one; y matters only when `shiftUsesVy` (43_alu.md R108). -/
  | shl (x y : Reg)
  /-- 9xy0, skip if Vx differs from Vy (42_skip.md R93). -/
  | sneReg (x y : Reg)
  /-- Annn, load index (44_index_memory.md R113). -/
  | ldI (nnn : BitVec 12)
  /-- Bnnn, jump with register offset; x is the top nibble of nnn (41_control_flow.md R88). -/
  | jpo (nnn : BitVec 12)
  /-- Cxnn, masked random byte (43_alu.md R112). -/
  | rnd (x : Reg) (nn : Byte)
  /-- Dxyn, draw a sprite of n rows; n is a count, 0 to 15 (40_display.md R81). -/
  | drw (x y : Reg) (n : Nat)
  /-- Ex9E, skip if key pressed (42_skip.md R94). -/
  | skp (x : Reg)
  /-- ExA1, skip if key not pressed (42_skip.md R95). -/
  | sknp (x : Reg)
  /-- Fx07, read the delay timer (45_timer_key.md R121). -/
  | ldVxDT (x : Reg)
  /-- Fx0A, wait for a key (45_timer_key.md R122). -/
  | ldVxK (x : Reg)
  /-- Fx15, set the delay timer (45_timer_key.md R123). -/
  | ldDTVx (x : Reg)
  /-- Fx18, set the sound timer (45_timer_key.md R124). -/
  | ldSTVx (x : Reg)
  /-- Fx1E, add register to index (44_index_memory.md R114). -/
  | addI (x : Reg)
  /-- Fx29, point I at a font glyph (44_index_memory.md R116). -/
  | ldF (x : Reg)
  /-- Fx33, store decimal digits (44_index_memory.md R117). -/
  | ldB (x : Reg)
  /-- Fx55, store registers V0 to Vx (44_index_memory.md R118). -/
  | storeRegs (x : Reg)
  /-- Fx65, load registers V0 to Vx (44_index_memory.md R119). -/
  | loadRegs (x : Reg)
deriving DecidableEq, Repr

end Sys2Proof
end

