-- ==== Sys2Proof/WellFormed.lean ====
section
/-! DEFINITION. Which terms of `Instr` are instructions of the hardware. Register numbers, immediate bytes and
12-bit addresses have exactly the values of their fields by type; the one check is the row count of Dxyn, a
number 0 to 15 (spec/30_encoding.md R65). -/

namespace Sys2Proof

/-- The operands of the instruction fit the fields of its encoding (30_encoding.md R61, R65). -/
def Instr.wellFormed : Instr → Bool
  | .cls => true
  | .ret => true
  | .jp _ => true
  | .call _ => true
  | .seImm _ _ => true
  | .sneImm _ _ => true
  | .seReg _ _ => true
  | .ldImm _ _ => true
  | .addImm _ _ => true
  | .ldReg _ _ => true
  | .orReg _ _ => true
  | .andReg _ _ => true
  | .xorReg _ _ => true
  | .addReg _ _ => true
  | .subReg _ _ => true
  | .shr _ _ => true
  | .subnReg _ _ => true
  | .shl _ _ => true
  | .sneReg _ _ => true
  | .ldI _ => true
  | .jpo _ => true
  | .rnd _ _ => true
  | .drw _ _ n => decide (n < 16)
  | .skp _ => true
  | .sknp _ => true
  | .ldVxDT _ => true
  | .ldVxK _ => true
  | .ldDTVx _ => true
  | .ldSTVx _ => true
  | .addI _ => true
  | .ldF _ => true
  | .ldB _ => true
  | .storeRegs _ => true
  | .loadRegs _ => true

end Sys2Proof
end

