-- ==== Sys2Proof/Decode.lean ====
section
/-! DEFINITION. Decoding (spec/30_encoding.md R60 to R71), total on any bytes, and the encoder written from the
same opcode map (R66). -/

namespace Sys2Proof

/-- Why bytes give no instruction. -/
inductive Reject where
  /-- Fewer than two bytes: an opcode is two bytes (30_encoding.md R60). -/
  | truncated
  /-- The word matches no row of the opcode map (30_encoding.md R68). Not a fault: the tick that fetches it
  advances `pc` and raises `Diag`. -/
  | unrecognized (opcode : Word)
deriving DecidableEq, Repr

/-- The primary opcode, bits 15:12 (30_encoding.md R61). -/
def opField (w : Word) : BitVec 4 := w.extractLsb' 12 4

/-- Register number x, bits 11:8 (30_encoding.md R61). -/
def xField (w : Word) : Reg := w.extractLsb' 8 4

/-- Register number y, bits 7:4 (30_encoding.md R61). -/
def yField (w : Word) : Reg := w.extractLsb' 4 4

/-- The low nibble n, bits 3:0 (30_encoding.md R61). -/
def nField (w : Word) : BitVec 4 := w.extractLsb' 0 4

/-- The low byte nn, bits 7:0 (30_encoding.md R61). -/
def nnField (w : Word) : Byte := w.extractLsb' 0 8

/-- The address nnn, bits 11:0 (30_encoding.md R61). -/
def nnnField (w : Word) : BitVec 12 := w.extractLsb' 0 12

/-- Secondary dispatch for op = 0: the whole word is compared (30_encoding.md R67). -/
def decodeZero (w : Word) : Option Instr :=
  if w = 0x00E0#16 then some .cls else if w = 0x00EE#16 then some .ret else none

/-- Secondary dispatch for op = 8, on the low nibble (30_encoding.md R67, 90_conflicts.md C3). -/
def decodeEight (x y : Reg) (n : BitVec 4) : Option Instr :=
  match n with
  | 0x0#4 => some (.ldReg x y)
  | 0x1#4 => some (.orReg x y)
  | 0x2#4 => some (.andReg x y)
  | 0x3#4 => some (.xorReg x y)
  | 0x4#4 => some (.addReg x y)
  | 0x5#4 => some (.subReg x y)
  | 0x6#4 => some (.shr x y)
  | 0x7#4 => some (.subnReg x y)
  | 0xE#4 => some (.shl x y)
  | _ => none

/-- Secondary dispatch for op = 0xE, on the low byte (30_encoding.md R67). -/
def decodeE (x : Reg) (nn : Byte) : Option Instr :=
  match nn with
  | 0x9E#8 => some (.skp x)
  | 0xA1#8 => some (.sknp x)
  | _ => none

/-- Secondary dispatch for op = 0xF, on the low byte (30_encoding.md R67). -/
def decodeF (x : Reg) (nn : Byte) : Option Instr :=
  match nn with
  | 0x07#8 => some (.ldVxDT x)
  | 0x0A#8 => some (.ldVxK x)
  | 0x15#8 => some (.ldDTVx x)
  | 0x18#8 => some (.ldSTVx x)
  | 0x1E#8 => some (.addI x)
  | 0x29#8 => some (.ldF x)
  | 0x33#8 => some (.ldB x)
  | 0x55#8 => some (.storeRegs x)
  | 0x65#8 => some (.loadRegs x)
  | _ => none

/-- Dispatch on the first nibble (30_encoding.md R67); `none` is an unrecognized opcode
(the last arm only closes the match: the 16 before it are all the values of the nibble). -/
def lookupWord (w : Word) : Option Instr :=
  match opField w with
  | 0x0#4 => decodeZero w
  | 0x1#4 => some (.jp (nnnField w))
  | 0x2#4 => some (.call (nnnField w))
  | 0x3#4 => some (.seImm (xField w) (nnField w))
  | 0x4#4 => some (.sneImm (xField w) (nnField w))
  | 0x5#4 => if nField w = 0x0#4 then some (.seReg (xField w) (yField w)) else none
  | 0x6#4 => some (.ldImm (xField w) (nnField w))
  | 0x7#4 => some (.addImm (xField w) (nnField w))
  | 0x8#4 => decodeEight (xField w) (yField w) (nField w)
  | 0x9#4 => if nField w = 0x0#4 then some (.sneReg (xField w) (yField w)) else none
  | 0xA#4 => some (.ldI (nnnField w))
  | 0xB#4 => some (.jpo (nnnField w))
  | 0xC#4 => some (.rnd (xField w) (nnField w))
  | 0xD#4 => some (.drw (xField w) (yField w) (nField w).toNat)
  | 0xE#4 => decodeE (xField w) (nnField w)
  | 0xF#4 => decodeF (xField w) (nnField w)
  | _ => none

/-- The decoder on one opcode word: an instruction, or the word rejected by name. -/
def decodeWord (w : Word) : Except Reject Instr :=
  match lookupWord w with
  | some i => .ok i
  | none => .error (.unrecognized w)

/-- The decoder on bytes, the high byte first (20_memory.md R43): the instruction and the bytes after it. -/
def decode : List Byte → Except Reject (Instr × List Byte)
  | hi :: lo :: rest =>
    match decodeWord (hi ++ lo) with
    | .ok i => .ok (i, rest)
    | .error r => .error r
  | _ => .error .truncated

/-- The word of an instruction, each row written as the `encoding` string of the opcode table, bit 15 first
(30_encoding.md R66). -/
def encode : Instr → Word
  | .cls => 0x00E0#16
  | .ret => 0x00EE#16
  | .jp nnn => 0x1#4 ++ nnn
  | .call nnn => 0x2#4 ++ nnn
  | .seImm x nn => 0x3#4 ++ x ++ nn
  | .sneImm x nn => 0x4#4 ++ x ++ nn
  | .seReg x y => 0x5#4 ++ x ++ y ++ 0x0#4
  | .ldImm x nn => 0x6#4 ++ x ++ nn
  | .addImm x nn => 0x7#4 ++ x ++ nn
  | .ldReg x y => 0x8#4 ++ x ++ y ++ 0x0#4
  | .orReg x y => 0x8#4 ++ x ++ y ++ 0x1#4
  | .andReg x y => 0x8#4 ++ x ++ y ++ 0x2#4
  | .xorReg x y => 0x8#4 ++ x ++ y ++ 0x3#4
  | .addReg x y => 0x8#4 ++ x ++ y ++ 0x4#4
  | .subReg x y => 0x8#4 ++ x ++ y ++ 0x5#4
  | .shr x y => 0x8#4 ++ x ++ y ++ 0x6#4
  | .subnReg x y => 0x8#4 ++ x ++ y ++ 0x7#4
  | .shl x y => 0x8#4 ++ x ++ y ++ 0xE#4
  | .sneReg x y => 0x9#4 ++ x ++ y ++ 0x0#4
  | .ldI nnn => 0xA#4 ++ nnn
  | .jpo nnn => 0xB#4 ++ nnn
  | .rnd x nn => 0xC#4 ++ x ++ nn
  | .drw x y n => 0xD#4 ++ x ++ y ++ BitVec.ofNat 4 n
  | .skp x => 0xE#4 ++ x ++ 0x9E#8
  | .sknp x => 0xE#4 ++ x ++ 0xA1#8
  | .ldVxDT x => 0xF#4 ++ x ++ 0x07#8
  | .ldVxK x => 0xF#4 ++ x ++ 0x0A#8
  | .ldDTVx x => 0xF#4 ++ x ++ 0x15#8
  | .ldSTVx x => 0xF#4 ++ x ++ 0x18#8
  | .addI x => 0xF#4 ++ x ++ 0x1E#8
  | .ldF x => 0xF#4 ++ x ++ 0x29#8
  | .ldB x => 0xF#4 ++ x ++ 0x33#8
  | .storeRegs x => 0xF#4 ++ x ++ 0x55#8
  | .loadRegs x => 0xF#4 ++ x ++ 0x65#8

/-- The two bytes of an opcode word as memory holds them, high byte at the lower address (20_memory.md R43). -/
def wordBytes (w : Word) : List Byte := [w.extractLsb' 8 8, w.extractLsb' 0 8]

/-- The `mask` column of an instruction's row (30_encoding.md R66). -/
def rowMask : Instr → Word
  | .cls | .ret => 0xFFFF#16
  | .jp _ | .call _ | .ldI _ | .jpo _ => 0xF000#16
  | .seImm _ _ | .sneImm _ _ | .ldImm _ _ | .addImm _ _ | .rnd _ _ => 0xF000#16
  | .drw _ _ _ => 0xF000#16
  | .seReg _ _ | .sneReg _ _ | .ldReg _ _ | .orReg _ _ | .andReg _ _ | .xorReg _ _ => 0xF00F#16
  | .addReg _ _ | .subReg _ _ | .shr _ _ | .subnReg _ _ | .shl _ _ => 0xF00F#16
  | .skp _ | .sknp _ | .ldVxDT _ | .ldVxK _ | .ldDTVx _ | .ldSTVx _ => 0xF0FF#16
  | .addI _ | .ldF _ | .ldB _ | .storeRegs _ | .loadRegs _ => 0xF0FF#16

/-- The `match` column of an instruction's row (30_encoding.md R66). -/
def rowMatch : Instr → Word
  | .cls => 0x00E0#16
  | .ret => 0x00EE#16
  | .jp _ => 0x1000#16
  | .call _ => 0x2000#16
  | .seImm _ _ => 0x3000#16
  | .sneImm _ _ => 0x4000#16
  | .seReg _ _ => 0x5000#16
  | .ldImm _ _ => 0x6000#16
  | .addImm _ _ => 0x7000#16
  | .ldReg _ _ => 0x8000#16
  | .orReg _ _ => 0x8001#16
  | .andReg _ _ => 0x8002#16
  | .xorReg _ _ => 0x8003#16
  | .addReg _ _ => 0x8004#16
  | .subReg _ _ => 0x8005#16
  | .shr _ _ => 0x8006#16
  | .subnReg _ _ => 0x8007#16
  | .shl _ _ => 0x800E#16
  | .sneReg _ _ => 0x9000#16
  | .ldI _ => 0xA000#16
  | .jpo _ => 0xB000#16
  | .rnd _ _ => 0xC000#16
  | .drw _ _ _ => 0xD000#16
  | .skp _ => 0xE09E#16
  | .sknp _ => 0xE0A1#16
  | .ldVxDT _ => 0xF007#16
  | .ldVxK _ => 0xF00A#16
  | .ldDTVx _ => 0xF015#16
  | .ldSTVx _ => 0xF018#16
  | .addI _ => 0xF01E#16
  | .ldF _ => 0xF029#16
  | .ldB _ => 0xF033#16
  | .storeRegs _ => 0xF055#16
  | .loadRegs _ => 0xF065#16

/-- The (mask, match) columns of the opcode map, row by row (30_encoding.md R66). -/
def opcodeRows : List (Word × Word) :=
  [(0xFFFF, 0x00E0), (0xFFFF, 0x00EE), (0xF000, 0x1000), (0xF000, 0x2000), (0xF000, 0x3000), (0xF000, 0x4000),
   (0xF00F, 0x5000), (0xF000, 0x6000), (0xF000, 0x7000), (0xF00F, 0x8000), (0xF00F, 0x8001), (0xF00F, 0x8002)] ++
  [(0xF00F, 0x8003), (0xF00F, 0x8004), (0xF00F, 0x8005), (0xF00F, 0x8006), (0xF00F, 0x8007), (0xF00F, 0x800E),
   (0xF00F, 0x9000), (0xF000, 0xA000), (0xF000, 0xB000), (0xF000, 0xC000), (0xF000, 0xD000), (0xF0FF, 0xE09E)] ++
  [(0xF0FF, 0xE0A1), (0xF0FF, 0xF007), (0xF0FF, 0xF00A), (0xF0FF, 0xF015), (0xF0FF, 0xF018), (0xF0FF, 0xF01E),
   (0xF0FF, 0xF029), (0xF0FF, 0xF033), (0xF0FF, 0xF055), (0xF0FF, 0xF065)]

/-- The opcode word whose table bits are `w` (bits above `nbits` are 0). -/
def tableWord (nbits w : Nat) : Word := BitVec.ofNat 16 (w % 2 ^ nbits)

/-- What the decoder reads from an instruction given in the opcode table's bit numbering: the word is laid out in
bytes as memory holds it and decoded. -/
def decodeTableWord (nbits w : Nat) : Option Instr :=
  match decode (wordBytes (tableWord nbits w)) with
  | .ok (i, _) => some i
  | .error _ => none

end Sys2Proof
end

