-- ==== Sys2Proof/Machine/ControlFlow.lean ====
section
/-! DEFINITION. Control transfer 00EE, 1nnn, 2nnn, Bnnn (spec/41_control_flow.md). A meaning takes the state before
the tick, `pc` at the opcode; it advances `pc` first (spec/30_encoding.md R63). -/

namespace Sys2Proof.Machine

/-- 00EE (41_control_flow.md R85): the popped value as it is. -/
def execRet (s : State) : Host.Outcome State Fault Refusal :=
  match s.advance.pop with
  | none => raiseFault s .stackUnderflow (encode .ret)
  | some (target, t) => .next (t.setPc target)

/-- 1nnn (41_control_flow.md R86). -/
def execJp (nnn : BitVec 12) (s : State) : Host.Outcome State Fault Refusal := .next (s.advance.setPc (addr16 nnn))

/-- 2nnn (41_control_flow.md R87): pushes the address after the call. -/
def execCall (nnn : BitVec 12) (s : State) : Host.Outcome State Fault Refusal :=
  match s.advance.push s.advance.pc with
  | none => raiseFault s .stackOverflow (encode (.call nnn))
  | some t => .next (t.setPc (addr16 nnn))

/-- Bnnn (41_control_flow.md R88): the 16-bit sum, not reduced to 12 bits. -/
def execJpo (nnn : BitVec 12) (s : State) : Host.Outcome State Fault Refusal :=
  let t := s.advance
  .next (t.setPc (addr16 nnn + (t.jumpOffset nnn).setWidth 16))

end Sys2Proof.Machine
end

