-- ==== Sys2Proof/Machine/Surface.lean ====
section
/-! DEFINITION. The reference display surface the core commands (spec/60_exceptions.md R146 to R149). -/

namespace Sys2Proof.Machine

/-- Row-major order of pixels. -/
abbrev pixelBefore (p q : Nat × Nat) : Prop := p.1 < q.1 ∨ (p.1 = q.1 ∧ p.2 < q.2)

/-- Toggle one pixel in the list of those that are on, keeping it rising. -/
def togglePixel (p : Nat × Nat) : List (Nat × Nat) → List (Nat × Nat)
  | [] => [p]
  | q :: l => if pixelBefore p q then p :: q :: l else if p = q then l else q :: togglePixel p l

/-- `pix[r][c]` (R146). -/
def Display.pix (d : Display) (r c : Nat) : Bool := d.lit.contains (r, c)

/-- The canonical form of the surface: the lit pixels rise and lie on it. -/
abbrev Display.wf (d : Display) : Prop :=
  d.lit.Pairwise pixelBefore ∧ ∀ p ∈ d.lit, p.1 < d.height ∧ p.2 < d.width

/-- `DispClear()`: all pixels off (R147). -/
def Display.clear (d : Display) : Display := { d with lit := [] }

/-- The sprite bit for column c of a row; bit 7 is the leftmost (R148; PRESUMED, log 11, unsafe). -/
def spriteBit (row : Byte) (c : Nat) : Bool := row.getLsbD (7 - c)

/-- The pixels the set sprite bits of one row reach, clipped at the right and bottom edges (R148). -/
def Display.rowTargets (d : Display) (x0 r : Nat) (row : Byte) : List (Nat × Nat) :=
  if d.height ≤ r then []
  else ((List.range 8).filter fun c => decide (x0 + c < d.width) && spriteBit row c).map fun c => (r, x0 + c)

/-- The pixels a sprite's set bits reach, in the order the rows and columns are drawn (R148). -/
def Display.targets (d : Display) (x0 : Nat) : Nat → List Byte → List (Nat × Nat)
  | _, [] => []
  | r, row :: rows => d.rowTargets x0 r row ++ d.targets x0 (r + 1) rows

/-- XOR pixels on, one after the other; true once a pixel went from on to off (R148). -/
def Display.xorPixels (d : Display) : List (Nat × Nat) → Bool × Display
  | [] => (false, d)
  | p :: ps =>
    let rest := Display.xorPixels { d with lit := togglePixel p d.lit } ps
    (d.pix p.1 p.2 || rest.1, rest.2)

/-- `DispDraw(x, y, rows, h)`: the origin wraps, rows and columns are clipped (R148). -/
def Display.draw (d : Display) (x y : Byte) (rows : List Byte) (h : Nat) : Bool × Display :=
  d.xorPixels (d.targets (x.toNat % d.width) (y.toNat % d.height) (rows.take h))

/-- Replace the display surface. -/
def State.setDisplay (s : State) (d : Display) : State := { s with display := d }

/-- Send `DispClear` and have the device perform it (10_state.md R31, 40_display.md R80). -/
def State.dispClear (s : State) : State := (s.setDisplay s.display.clear).emit .dispClear

/-- Send `DispDraw` and have the device perform it: its answer and the state after (10_state.md R31,
40_display.md R81). -/
def State.dispDraw (s : State) (x y : Byte) (rows : List Byte) (n : Nat) : Bool × State :=
  let answer := s.display.draw x y rows n
  (answer.1, (s.setDisplay answer.2).emit (.dispDraw x y rows (BitVec.ofNat 8 n)))

end Sys2Proof.Machine
end

