-- ==== Sys2Proof/Machine/DisplayFamily.lean ====
section
/-! DEFINITION. The display instructions 00E0 and Dxyn (spec/40_display.md). A meaning takes the state before the
tick, `pc` at the opcode; it advances `pc` first (spec/30_encoding.md R63). -/

namespace Sys2Proof.Machine

/-- 00E0 (40_display.md R80). -/
def execCls (s : State) : Host.Outcome State Fault Refusal := .next s.advance.dispClear

/-- Dxyn (40_display.md R81): coordinates and rows are read first, one command is sent, VF is written last. -/
def execDrw (x y : Reg) (n : Nat) (s : State) : Host.Outcome State Fault Refusal :=
  if s.beyondMemory n then raiseFault s .dataAddress (encode (.drw x y n))
  else
    let t := s.advance
    let drawn := t.dispDraw (t.getV x) (t.getV y) (t.readBytes t.I.toNat n) n
    .next (drawn.2.setV VF (flagByte drawn.1))

end Sys2Proof.Machine
end

