-- ==== Sys2Proof/Machine/IndexMemory.lean ====
section
/-! DEFINITION. Index register and memory: Annn, Fx1E, Fx29, Fx33, Fx55, Fx65 (spec/44_index_memory.md). A meaning
takes the state before the tick, `pc` at the opcode; it advances `pc` first (spec/30_encoding.md R63). The bounds
are checked before any effect (spec/20_memory.md R48). -/

namespace Sys2Proof.Machine

/-- Annn (44_index_memory.md R113). -/
def execLdI (nnn : BitVec 12) (s : State) : Host.Outcome State Fault Refusal := .next (s.advance.setI (addr16 nnn))

/-- Fx1E (44_index_memory.md R114): modulo 65536, no flag, no fault. -/
def execAddI (x : Reg) (s : State) : Host.Outcome State Fault Refusal :=
  .next (s.advance.setI (s.I + (s.getV x).setWidth 16))

/-- Fx29 (44_index_memory.md R116): the address, not the byte stored there. -/
def execLdF (x : Reg) (s : State) : Host.Outcome State Fault Refusal :=
  .next (s.advance.setI (glyphAddress (lowNibble (s.getV x))))

/-- Fx33 (44_index_memory.md R117). -/
def execLdB (x : Reg) (s : State) : Host.Outcome State Fault Refusal :=
  if s.beyondMemory 3 then raiseFault s .dataAddress (encode (.ldB x))
  else .next (s.advance.writeBytes s.I.toNat (decimalDigits (s.getV x)))

/-- Fx55 (44_index_memory.md R118). -/
def execStoreRegs (x : Reg) (s : State) : Host.Outcome State Fault Refusal :=
  if s.beyondMemory (x.toNat + 1) then raiseFault s .dataAddress (encode (.storeRegs x))
  else .next ((s.advance.writeBytes s.I.toNat (s.regsUpTo x)).shiftI (x.toNat + 1))

/-- Fx65 (44_index_memory.md R119). -/
def execLoadRegs (x : Reg) (s : State) : Host.Outcome State Fault Refusal :=
  if s.beyondMemory (x.toNat + 1) then raiseFault s .dataAddress (encode (.loadRegs x))
  else .next ((s.advance.setRegsFrom 0 (s.readBytes s.I.toNat (x.toNat + 1))).shiftI (x.toNat + 1))

end Sys2Proof.Machine
end

