-- ==== Sys2Proof/Machine/Skip.lean ====
section
/-! DEFINITION. The conditional skips 3xnn, 4xnn, 5xy0, 9xy0, Ex9E, ExA1 (spec/42_skip.md). A meaning takes the
state before the tick, `pc` at the opcode; it advances `pc` first (spec/30_encoding.md R63). -/

namespace Sys2Proof.Machine

/-- 3xnn (42_skip.md R90). -/
def execSeImm (x : Reg) (nn : Byte) (s : State) : Host.Outcome State Fault Refusal :=
  .next (s.advance.skipIf (decide (s.getV x = nn)))

/-- 4xnn (42_skip.md R91). -/
def execSneImm (x : Reg) (nn : Byte) (s : State) : Host.Outcome State Fault Refusal :=
  .next (s.advance.skipIf (decide (s.getV x ≠ nn)))

/-- 5xy0 (42_skip.md R92). -/
def execSeReg (x y : Reg) (s : State) : Host.Outcome State Fault Refusal :=
  .next (s.advance.skipIf (decide (s.getV x = s.getV y)))

/-- 9xy0 (42_skip.md R93). -/
def execSneReg (x y : Reg) (s : State) : Host.Outcome State Fault Refusal :=
  .next (s.advance.skipIf (decide (s.getV x ≠ s.getV y)))

/-- Ex9E (42_skip.md R94). -/
def execSkp (x : Reg) (s : State) : Host.Outcome State Fault Refusal :=
  .next (s.advance.skipIf (s.keyDown (lowNibble (s.getV x))))

/-- ExA1 (42_skip.md R95). -/
def execSknp (x : Reg) (s : State) : Host.Outcome State Fault Refusal :=
  .next (s.advance.skipIf (!s.keyDown (lowNibble (s.getV x))))

end Sys2Proof.Machine
end

