-- ==== Sys2Proof/Machine/TimerKey.lean ====
section
/-! DEFINITION. Timer access and key wait: Fx07, Fx0A, Fx15, Fx18 (spec/45_timer_key.md). A meaning takes the state
before the tick, `pc` at the opcode; it advances `pc` first (spec/30_encoding.md R63). -/

namespace Sys2Proof.Machine

/-- Fx07 (45_timer_key.md R121). -/
def execLdVxDT (x : Reg) (s : State) : Host.Outcome State Fault Refusal := .next (s.advance.setV x s.DT)

/-- Fx0A (45_timer_key.md R122): with no key down `pc` goes back to this opcode. -/
def execLdVxK (x : Reg) (s : State) : Host.Outcome State Fault Refusal :=
  let t := s.advance
  match lowestKey t.KEYS with
  | none => .next (t.setPc (t.pc - 2))
  | some k => .next (t.setV x (BitVec.ofNat 8 k))

/-- Fx15 (45_timer_key.md R123). -/
def execLdDTVx (x : Reg) (s : State) : Host.Outcome State Fault Refusal := .next (s.advance.setDT (s.getV x))

/-- Fx18 (45_timer_key.md R124): `soundActive` follows `ST` at once. -/
def execLdSTVx (x : Reg) (s : State) : Host.Outcome State Fault Refusal := .next (s.advance.setST (s.getV x))

end Sys2Proof.Machine
end

