-- ==== Sys2Proof/Machine/Tick.lean ====
section
/-! DEFINITION. The instruction tick: fetch, decode, dispatch (spec/30_encoding.md R62, R63, R68). -/

namespace Sys2Proof.Machine

/-- The opcode at `pc`, the byte at the lower address first; `none` when the fetch is out of range
(30_encoding.md R62, 20_memory.md R43). -/
def State.fetchWord (s : State) : Option Word :=
  if s.pc.toNat + 1 > 4095 then none else some (s.memRead s.pc.toNat ++ s.memRead (s.pc.toNat + 1))

/-- A tick that fetched an unrecognized opcode: `pc` advances and `Diag` is raised (30_encoding.md R68). -/
def unrecognizedTick (s : State) (opcode : Word) : Host.Outcome State Fault Refusal :=
  .next (s.advance.diag s.pc opcode)

/-- The instruction tick (30_encoding.md R63): ignored in the fault state. -/
def instrTick (s : State) : Host.Outcome State Fault Refusal :=
  if s.FAULT.isSome then .next s
  else
    match s.fetchWord with
    | none => raiseFault s .fetchAddress 0
    | some opcode =>
      match decodeWord opcode with
      | .ok i => exec i s
      | .error _ => unrecognizedTick s opcode

end Sys2Proof.Machine
end

