-- ==== Sys2Proof/Machine/Events.lean ====
section
/-! DEFINITION. The host's events and what each does (spec/00_scope.md R10, spec/60_exceptions.md R135, R141,
spec/70_reset_and_hazards.md R160, R162, R170). -/

namespace Sys2Proof.Machine

/-- One step of a timer: towards 0, never below (60_exceptions.md R141). -/
def timerDown (b : Byte) : Byte := if b.toNat > 0 then b - 1 else b

/-- `TimerTick()`: both timers, in every state, the fault state included (60_exceptions.md R141, R144). -/
def timerTick (s : State) : State := (s.setDT (timerDown s.DT)).setST (timerDown s.ST)

/-- A new keypad mask (10_state.md R26). -/
def State.setKeys (s : State) (mask : BitVec 16) : State := { s with KEYS := mask }

/-- Memory as a new start finds it: nothing written, another `MEM_INIT` (70_reset_and_hazards.md R162; log 4). -/
def State.freshMemory (s : State) : State := { s with MEM := [], memEpoch := s.memEpoch + 1 }

/-- The preload of 70_reset_and_hazards.md R162: the font at 0x050, the image at 0x200, then the reset. An image
that does not fit is a load error and the core is never started (20_memory.md R56). -/
def preload (s : State) (font : Vector Byte 80) (image : List Byte) : Host.Outcome State Fault Refusal :=
  if image.length > Config.maxImage then .fault (.imageTooLong image.length)
  else .next ((s.freshMemory.writeBytes Config.fontBase font.toList).writeBytes Config.romBase image).resetCore

/-- What one event does. -/
def deliver (e : HostEvent) (s : State) : Host.Outcome State Fault Refusal :=
  match e with
  | .reset => .next s.resetCore
  | .preload font image => preload s font image
  | .keys mask => .next (s.setKeys mask)
  | .timerTick => .next (timerTick s)
  | .instrTick => instrTick s

/-- The event the machine performs next: the schedule's first, a free event when none is left, so that no kind of
event ever stops coming (70_reset_and_hazards.md R170; log 1). -/
def State.nextEvent (s : State) : HostEvent :=
  match s.schedule with
  | [] => Config.freeEvent s.eventIndex
  | e :: _ => e

/-- Take the next event off the schedule, count it (log 1) and clear the outputs of the one before (log 13). -/
def State.beginEvent (s : State) : State :=
  { s with schedule := s.schedule.tail, out := [], eventIndex := s.eventIndex + 1 }

/-- One iteration of the host loop (70_reset_and_hazards.md R170): each event optional, at most one of each. -/
structure HostIteration where
  reset : Bool
  keys : Option (BitVec 16)
  timerTick : Bool
  instrTick : Bool
deriving DecidableEq, Repr

/-- The events of one iteration in the loop's strict order: reset, keys, timer tick, instruction tick
(60_exceptions.md R135). -/
def HostIteration.events (h : HostIteration) : List HostEvent :=
  (if h.reset then [.reset] else []) ++ (h.keys.map HostEvent.keys).toList ++
    (if h.timerTick then [.timerTick] else []) ++ (if h.instrTick then [.instrTick] else [])

/-- The customary font table, which a host may preload (70_reset_and_hazards.md R163; PRESUMED, log 14). No rule
of the core depends on it. -/
def customaryFont : Vector Byte 80 :=
  (#v[0xF0, 0x90, 0x90, 0x90, 0xF0, 0x20, 0x60, 0x20, 0x20, 0x70, 0xF0, 0x10, 0xF0, 0x80, 0xF0, 0xF0, 0x10, 0xF0, 0x10, 0xF0] : Vector Byte 20) ++
  (#v[0x90, 0x90, 0xF0, 0x10, 0x10, 0xF0, 0x80, 0xF0, 0x10, 0xF0, 0xF0, 0x80, 0xF0, 0x90, 0xF0, 0xF0, 0x10, 0x20, 0x40, 0x40] : Vector Byte 20) ++
  (#v[0xF0, 0x90, 0xF0, 0x90, 0xF0, 0xF0, 0x90, 0xF0, 0x10, 0xF0, 0xF0, 0x90, 0xF0, 0x90, 0x90, 0xE0, 0x90, 0xE0, 0x90, 0xE0] : Vector Byte 20) ++
  (#v[0xF0, 0x80, 0x80, 0x80, 0xF0, 0xE0, 0x90, 0x90, 0x90, 0xE0, 0xF0, 0x80, 0xF0, 0x80, 0xF0, 0xF0, 0x80, 0xF0, 0x80, 0x80] : Vector Byte 20)

end Sys2Proof.Machine
end

