-- ==== Sys2Proof/Machine/Step.lean ====
section
/-! DEFINITION. One step of the machine: the host's next event (spec/00_scope.md R10; log 1). -/

namespace Sys2Proof.Machine

def step (s : State) : Host.Outcome State Fault Refusal := deliver s.nextEvent s.beginEvent

/-- `s` with `pc` where a fetch is in range; 0x200 if it was not. -/
def State.withFetchablePc (s : State) : State :=
  if s.pc.toNat + 1 > 4095 then s.setPc (BitVec.ofNat 16 Config.romBase) else s

/-- `s` with an instruction tick scheduled as its next event. -/
def State.withInstrTickNext (s : State) : State :=
  match s.schedule with
  | .instrTick :: _ => s
  | _ => { s with schedule := .instrTick :: s.schedule }

/-- `s` with the word stored where the next fetch reads it, no fault latched and an instruction tick coming next,
so that the very next step runs it (log 15). -/
def State.withFetchWord (s : State) (nbits w : Nat) : State :=
  let t := s.withFetchablePc.withInstrTickNext
  { t.writeBytes t.pc.toNat (wordBytes (tableWord nbits w)) with FAULT := none }

end Sys2Proof.Machine
end

