-- ==== Sys2Proof/Safety.lean ====
section
/-! DEFINITION. What counts as a safe run, in the terms claims use: the core is running, the invariant of its
state, and the frame of an instruction. -/

namespace Sys2Proof.Machine

/-- The core is not in the fault state (spec/10_state.md R29). -/
abbrev State.running (s : State) : Prop := s.FAULT = none

/-- The number of bytes an instruction accesses at `I` (spec/20_memory.md R46). -/
def bytesAtI : Instr → Nat
  | .drw _ _ n => n
  | .ldB _ => 3
  | .storeRegs x => x.toNat + 1
  | .loadRegs x => x.toNat + 1
  | _ => 0

/-- What a latched fault says of the state it left: the opcode latched is one its cause is raised by, and the condition
of the cause is true of that very opcode (spec/60_exceptions.md R131, R133). -/
def Cause.explains (c : Cause) (s : State) : Prop :=
  match c with
  | .stackOverflow => s.SP.val = 16 ∧ ∃ nnn, s.FAULT_OP = encode (.call nnn)
  | .stackUnderflow => s.SP.val = 0 ∧ s.FAULT_OP = 0x00EE
  | .dataAddress => ∃ i, decodeWord s.FAULT_OP = .ok i ∧ 1 ≤ bytesAtI i ∧ s.I.toNat + bytesAtI i - 1 > 4095
  | .fetchAddress => s.FAULT_OP = 0 ∧ s.pc.toNat ≥ 4095

/-- The invariant every step keeps: memory and display in canonical form, and a latched fault precise, that is, `pc`
at the faulting opcode and the fault's condition true of the state. -/
structure State.Inv (s : State) : Prop where
  memory : Memory.wf s.MEM
  display : s.display.wf
  faultAddress : ∀ c, s.FAULT = some c → s.FAULT_PC = s.pc
  faultCause : ∀ c, s.FAULT = some c → c.explains s

/-- What an instruction may change, the program counter apart. -/
structure MayChange where
  /-- The general registers it may change. -/
  regs : List Reg := []
  /-- Whether it may change the index register. -/
  index : Bool := false
  /-- Whether it may change the call stack. -/
  stack : Bool := false
  /-- Whether it may change the delay timer. -/
  delay : Bool := false
  /-- Whether it may change the sound timer. -/
  sound : Bool := false
  /-- The first of the bytes of memory it may change. -/
  memFrom : Nat := 0
  /-- The number of bytes of memory it may change. -/
  memCount : Nat := 0
  /-- Whether it may change the display and send an output. -/
  device : Bool := false
  /-- Whether it may consume the random input. -/
  random : Bool := false

/-- THE FRAME: `t` differs from `s` in nothing but `pc` and what `m` names. -/
structure Frame (m : MayChange) (s t : State) : Prop where
  regs : ∀ r, r ∉ m.regs → t.getV r = s.getV r
  index : m.index = false → t.I = s.I
  stack : m.stack = false → t.STK = s.STK ∧ t.SP = s.SP
  delay : m.delay = false → t.DT = s.DT
  sound : m.sound = false → t.ST = s.ST
  memory : ∀ a, ¬(m.memFrom ≤ a ∧ a < m.memFrom + m.memCount) → t.memRead a = s.memRead a
  latch : t.FAULT = s.FAULT ∧ t.FAULT_PC = s.FAULT_PC ∧ t.FAULT_OP = s.FAULT_OP
  inputs : t.straps = s.straps ∧ t.KEYS = s.KEYS ∧ t.schedule = s.schedule ∧ t.eventIndex = s.eventIndex ∧
    t.memEpoch = s.memEpoch
  device : m.device = false → t.display = s.display ∧ t.out = s.out
  random : m.random = false → t.freeIndex = s.freeIndex

/-- The "w" entries of the access matrix (spec/10_state.md R35): what each instruction may write, `pc` apart. -/
def accessMatrix (i : Instr) (s : State) : MayChange :=
  match i with
  | .cls => { device := true }
  | .ret => { stack := true }
  | .jp _ => {}
  | .call _ => { stack := true }
  | .seImm _ _ => {}
  | .sneImm _ _ => {}
  | .seReg _ _ => {}
  | .ldImm x _ => { regs := [x] }
  | .addImm x _ => { regs := [x] }
  | .ldReg x _ => { regs := [x] }
  | .orReg x _ => { regs := [x] }
  | .andReg x _ => { regs := [x] }
  | .xorReg x _ => { regs := [x] }
  | .addReg x _ => { regs := [x, 15] }
  | .subReg x _ => { regs := [x, 15] }
  | .shr x _ => { regs := [x, 15] }
  | .subnReg x _ => { regs := [x, 15] }
  | .shl x _ => { regs := [x, 15] }
  | .sneReg _ _ => {}
  | .ldI _ => { index := true }
  | .jpo _ => {}
  | .rnd x _ => { regs := [x], random := true }
  | .drw _ _ _ => { regs := [15], device := true }
  | .skp _ => {}
  | .sknp _ => {}
  | .ldVxDT x => { regs := [x] }
  | .ldVxK x => { regs := if s.KEYS = 0 then [] else [x] }
  | .ldDTVx _ => { delay := true }
  | .ldSTVx _ => { sound := true }
  | .addI _ => { index := true }
  | .ldF _ => { index := true }
  | .ldB _ => { memFrom := s.I.toNat, memCount := 3 }
  | .storeRegs x => { index := s.straps.storeShiftsI, memFrom := s.I.toNat, memCount := x.toNat + 1 }
  | .loadRegs x =>
    { regs := (List.range (x.toNat + 1)).map (BitVec.ofNat 4), index := s.straps.storeShiftsI }

end Sys2Proof.Machine
end

