-- ==== Sys2Proof/Certificates/Slice0/Obligations.lean ====
section
/-! DEFINITION. The statements for the provers. The docstring of each names the rule of spec/ it formalises; a
clause that rests on the model's own choice names its log entry. -/

open Sys2Proof Sys2Proof.Machine

/-! ### Encoding -/

/-- Words written out from the spec's encodings, one for each family (30_encoding.md R66). -/
def Obligations.SpecWordsDecodeToTheirInstructions : Prop :=
  decodeWord 0x00E0 = .ok .cls ∧ decodeWord 0xD125 = .ok (.drw 1 2 5) ∧
  decodeWord 0x2300 = .ok (.call 0x300) ∧ decodeWord 0xB234 = .ok (.jpo 0x234) ∧
  decodeWord 0x332A = .ok (.seImm 3 0x2A) ∧ decodeWord 0xE5A1 = .ok (.sknp 5) ∧
  decodeWord 0x8124 = .ok (.addReg 1 2) ∧ decodeWord 0x8F1E = .ok (.shl 15 1) ∧
  decodeWord 0xA2F0 = .ok (.ldI 0x2F0) ∧ decodeWord 0xF433 = .ok (.ldB 4) ∧
  decodeWord 0xF30A = .ok (.ldVxK 3) ∧ decodeWord 0xF218 = .ok (.ldSTVx 2) ∧
  decodeWord 0x01E0 = .error (.unrecognized 0x01E0)

/-- DECODE AND ENCODE AGREE: decoding the two bytes of an encoded well-formed instruction gives it back, whatever
bytes follow (30_encoding.md R60, R61, R66, R67). -/
def Obligations.DecodeOfEncodeGivesTheInstructionBack : Prop :=
  ∀ (i : Instr) (rest : List Byte), i.wellFormed = true →
    decode (wordBytes (encode i) ++ rest) = .ok (i, rest)

/-- The other direction: a word that decodes is the encoding of its instruction, which is well-formed; so no bit of
a recognized word is dropped and no two words share an instruction. -/
def Obligations.EncodeOfDecodeGivesTheWordBack : Prop :=
  ∀ (w : Word) (i : Instr), decodeWord w = .ok i → i.wellFormed = true ∧ encode i = w

/-- The unrecognized words are exactly those of the table of 30_encoding.md R69, by numbers. -/
def Obligations.UnrecognizedWordsAreThoseListed : Prop :=
  ∀ w : Word, decodeWord w = .error (.unrecognized w) ↔
    (w.toNat / 4096 = 0 ∧ w.toNat ≠ 0x00E0 ∧ w.toNat ≠ 0x00EE) ∨
    (w.toNat / 4096 = 5 ∧ w.toNat % 16 ≠ 0) ∨
    (w.toNat / 4096 = 8 ∧ w.toNat % 16 ∈ [8, 9, 0xA, 0xB, 0xC, 0xD, 0xF]) ∨
    (w.toNat / 4096 = 9 ∧ w.toNat % 16 ≠ 0) ∨
    (w.toNat / 4096 = 0xE ∧ w.toNat % 256 ∉ [0x9E, 0xA1]) ∨
    (w.toNat / 4096 = 0xF ∧ w.toNat % 256 ∉ [0x07, 0x0A, 0x15, 0x18, 0x1E, 0x29, 0x33, 0x55, 0x65])

/-- A word is recognized exactly when it matches a row of the opcode map, and then it matches the row of the
instruction it decodes to and no other row (30_encoding.md R66). -/
def Obligations.WordSelectsTheOneRowItMatches : Prop :=
  ∀ w : Word,
    (∃ i, decodeWord w = .ok i ∧ w &&& rowMask i = rowMatch i ∧ (rowMask i, rowMatch i) ∈ opcodeRows ∧
      ∀ row ∈ opcodeRows, w &&& row.1 = row.2 → row = (rowMask i, rowMatch i)) ∨
    (decodeWord w = .error (.unrecognized w) ∧ ∀ row ∈ opcodeRows, w &&& row.1 ≠ row.2)

/-! ### The instruction tick -/

/-- A STEP RUNS THE DECODED INSTRUCTION (30_encoding.md R63): when the next event is an instruction tick, the core is
running, the fetch is in range and the two bytes at `pc` decode to `i`, the step is `exec i` of the state with the
event taken off the schedule and counted and the outputs cleared (logs 1 and 13). `exec` itself advances `pc`. -/
def Obligations.StepRunsTheDecodedInstruction : Prop :=
  ∀ (s : State) (i : Instr), s.nextEvent = .instrTick → s.running → s.pc.toNat + 1 ≤ 4095 →
    decode (s.readBytes s.pc.toNat 2) = .ok (i, []) →
    step s = exec i { s with schedule := s.schedule.tail, out := [], eventIndex := s.eventIndex + 1 }

/-- An unrecognized opcode advances `pc` by 2, raises `Diag` with its address and word, and changes nothing else
(30_encoding.md R68; taking the event off the schedule, counting it and clearing the outputs are logs 1 and 13). -/
def Obligations.UnrecognizedOpcodeOnlyAdvancesPcAndRaisesDiag : Prop :=
  ∀ (s : State) (w : Word), s.nextEvent = .instrTick → s.running → s.pc.toNat + 1 ≤ 4095 →
    decode (s.readBytes s.pc.toNat 2) = .error (.unrecognized w) →
    step s = .next { s with pc := s.pc + 2, schedule := s.schedule.tail, out := [.diag s.pc w],
                            eventIndex := s.eventIndex + 1 }

/-- The fetch (30_encoding.md R62): in range it is the two bytes at `pc`, the lower address first; with `pc` at or
beyond 4095 the tick latches FETCH_ADDRESS and does nothing else (taking the event off the schedule, counting it and
clearing the outputs are logs 1 and 13). -/
def Obligations.FetchReadsTwoBytesOrLatchesAFault : Prop :=
  ∀ s : State,
    (s.pc.toNat + 1 ≤ 4095 → ∃ w, s.fetchWord = some w ∧
      w.toNat = (s.memRead s.pc.toNat).toNat * 256 + (s.memRead (s.pc.toNat + 1)).toNat) ∧
    (s.pc.toNat ≥ 4095 → s.fetchWord = none ∧ (s.nextEvent = .instrTick → s.running →
      step s = .next { s with FAULT := some .fetchAddress, FAULT_PC := s.pc, FAULT_OP := 0,
                              schedule := s.schedule.tail, out := [], eventIndex := s.eventIndex + 1 }))

/-- While FAULT is not 0 an instruction tick changes nothing (10_state.md R29). -/
def Obligations.FaultStateIgnoresInstructionTicks : Prop :=
  ∀ (s : State) (c : Cause), s.nextEvent = .instrTick → s.FAULT = some c →
    step s = .next { s with schedule := s.schedule.tail, out := [], eventIndex := s.eventIndex + 1 }

/-- A tick that raises a fault commits nothing: the state after is the state before with the latch written, the
address `pc` and the opcode the word fetched, 0 for a fetch fault (60_exceptions.md R133). -/
def Obligations.FaultingTickCommitsNothingButTheLatch : Prop :=
  ∀ (s t : State) (c : Cause), s.nextEvent = .instrTick → s.running → step s = .next t → t.FAULT = some c →
    t = { s with FAULT := some c, FAULT_PC := s.pc, FAULT_OP := t.FAULT_OP, schedule := s.schedule.tail,
                   out := [], eventIndex := s.eventIndex + 1 } ∧
    (if c = .fetchAddress then t.FAULT_OP = 0
     else t.FAULT_OP = s.memRead s.pc.toNat ++ s.memRead (s.pc.toNat + 1))

/-- Which instruction raises which fault, and exactly when (60_exceptions.md R131, R132): every instruction answers a
next state, with the latch set on the table's condition and untouched otherwise. -/
def Obligations.InstructionsFaultExactlyOnTheirConditions : Prop :=
  ∀ (i : Instr) (s : State), s.running → ∃ t, exec i s = .next t ∧
    t.FAULT =
      match i with
      | .call _ => if s.SP.val = 16 then some .stackOverflow else none
      | .ret => if s.SP.val = 0 then some .stackUnderflow else none
      | .ldB _ => if s.I.toNat + 2 > 4095 then some .dataAddress else none
      | .storeRegs x => if s.I.toNat + x.toNat > 4095 then some .dataAddress else none
      | .loadRegs x => if s.I.toNat + x.toNat > 4095 then some .dataAddress else none
      | .drw _ _ n => if n ≥ 1 ∧ s.I.toNat + n - 1 > 4095 then some .dataAddress else none
      | _ => none

/-! ### Host events -/

/-- The reset event (70_reset_and_hazards.md R160), accepted in any state, the fault state included. -/
def Obligations.ResetEventRestoresTheCore : Prop :=
  ∀ s : State, s.nextEvent = .reset → ∃ t, step s = .next t ∧ t.pc = 0x200 ∧ (∀ r, t.getV r = 0) ∧ t.I = 0 ∧
    t.DT = 0 ∧ t.ST = 0 ∧ t.soundActive = false ∧ t.SP.val = 0 ∧ t.FAULT = none ∧ t.straps = s.straps ∧
    ∀ a, t.memRead a = s.memRead a

/-- The timer tick steps both timers towards 0 and changes nothing else, in every state (60_exceptions.md R141, R144). -/
def Obligations.TimerTickStepsBothTimersAndNothingElse : Prop :=
  ∀ s : State, s.nextEvent = .timerTick → ∃ t, step s = .next t ∧
    t.DT.toNat = s.DT.toNat - 1 ∧ t.ST.toNat = s.ST.toNat - 1 ∧
    t = { s with DT := t.DT, ST := t.ST, schedule := s.schedule.tail, out := [],
                 eventIndex := s.eventIndex + 1 }

/-- After m timer ticks a timer at v reads v - m, and 0 from v ticks on (60_exceptions.md R141). -/
def Obligations.TimersCountDownToZeroAndStay : Prop :=
  ∀ (m : Nat) (s : State) (rest : List HostEvent), s.schedule = List.replicate m .timerTick ++ rest →
    ∃ t : State, Host.Core.run core m s = .next t ∧ t.DT.toNat = s.DT.toNat - m ∧ t.ST.toNat = s.ST.toNat - m ∧
      (m > 0 → t = { s with DT := t.DT, ST := t.ST, schedule := rest, out := [],
                            eventIndex := s.eventIndex + m })

/-- A new keypad mask replaces the old one and changes nothing else (10_state.md R26). -/
def Obligations.KeyRefreshChangesOnlyTheMask : Prop :=
  ∀ (s : State) (mask : BitVec 16), s.nextEvent = .keys mask →
    step s = .next { s with KEYS := mask, schedule := s.schedule.tail, out := [], eventIndex := s.eventIndex + 1 }

/-- Byte k of the image goes to 0x200 + k, and an image longer than 3584 bytes stops the machine (20_memory.md R56).
That the load is an event, which may come in any state and whose failure is the machine's one stop, is the model's
choice (log 18), and that the event is the next of the schedule is log 1. -/
def Obligations.PreloadPlacesTheImageOrNeverStarts : Prop :=
  ∀ (s : State) (font : Vector Byte 80) (image : List Byte), s.nextEvent = .preload font image →
    (image.length ≤ 3584 → ∃ t, step s = .next t ∧ ∀ k (h : k < image.length), t.memRead (0x200 + k) = image[k]) ∧
    (image.length > 3584 → step s = .fault (.imageTooLong image.length))

/-- The preload puts the font at 0x050, leaves every byte outside the font and the image at the free `MEM_INIT` of a
new start (log 4), and resets the core (70_reset_and_hazards.md R162). -/
def Obligations.PreloadPlacesTheFontAndResetsTheCore : Prop :=
  ∀ (s : State) (font : Vector Byte 80) (image : List Byte), s.nextEvent = .preload font image →
    image.length ≤ 3584 → ∃ t, step s = .next t ∧
      (∀ k (h : k < 80), t.memRead (0x50 + k) = font[k]) ∧
      (∀ a, ¬(0x50 ≤ a ∧ a < 0xA0) → ¬(0x200 ≤ a ∧ a < 0x200 + image.length) →
        t.memRead a = Config.memInit (s.memEpoch + 1) a) ∧
      t.pc = 0x200 ∧ (∀ r, t.getV r = 0) ∧ t.I = 0 ∧ t.DT = 0 ∧ t.ST = 0 ∧ t.SP.val = 0 ∧ t.FAULT = none ∧
      t.straps = s.straps

/-- In one host iteration the timer tick comes before the instruction tick: an Fx07 of that iteration reads the
already decremented value (60_exceptions.md R135). -/
def Obligations.TimerTickPrecedesTheInstructionOfItsIteration : Prop :=
  ∀ (s : State) (x : Reg) (rest : List HostEvent),
    s.schedule = HostIteration.events { reset := false, keys := none, timerTick := true, instrTick := true } ++ rest →
    s.running → s.pc.toNat + 1 ≤ 4095 → decode (s.readBytes s.pc.toNat 2) = .ok (.ldVxDT x, []) →
    ∃ t : State, Host.Core.run core 2 s = .next t ∧ (t.getV x).toNat = s.DT.toNat - 1 ∧ t.schedule = rest

/-- The machine stops in one place only, the load of an oversized image; every other step answers a next state. That
the load, which the spec has before the run (20_memory.md R56), is an event and its failure the one stop is the model's
choice (log 18); so is that faults are next states (log 3). -/
def Obligations.OnlyAnOversizedImageStopsTheMachine : Prop :=
  ∀ s : State, (∃ t, step s = .next t) ∨
    ∃ font image, s.nextEvent = .preload font image ∧ image.length > 3584 ∧
      step s = .fault (.imageTooLong image.length)

/-- The word the host places is the instruction the very next step runs, from every state (log 15). -/
def Obligations.PlacedWordIsTheInstructionTheNextStepRuns : Prop :=
  ∀ (s : State) (nbits w : Nat) (i : Instr), decodeTableWord nbits w = some i →
    step (s.withFetchWord nbits w) = exec i (s.withFetchWord nbits w).beginEvent

/-! ### Reset and invariants -/

/-- The reset values the spec gives (10_state.md R34). -/
def Obligations.ResetStateHasTheSpecsValues : Prop :=
  State.reset.pc = 0x200 ∧ (∀ r, State.reset.getV r = 0) ∧ State.reset.I = 0 ∧ State.reset.DT = 0 ∧
  State.reset.ST = 0 ∧ State.reset.soundActive = false ∧ State.reset.SP.val = 0 ∧ State.reset.faultCode = 0

/-- The invariant holds of the reset state, and no fault is latched there (10_state.md R29, R34). Its canonical forms
are the model's own, of memory (log 4), which lists nothing there, and of the display (log 10), whose pixels there are
free values (log 12). -/
def Obligations.InvariantHoldsAtReset : Prop := State.reset.Inv ∧ State.reset.FAULT = none

/-- THE INVARIANT EVERY STEP KEEPS, whatever the event: memory and display stay in canonical form, and a latched
fault stays precise, `pc` at the faulting opcode and the condition of its cause true of the state and of the opcode
latched, which decodes to an instruction that raises that cause, or is 0 for a fetch fault
(20_memory.md R40, 60_exceptions.md R131, R133, R146). -/
def Obligations.EveryStepKeepsTheInvariant : Prop :=
  ∀ s t : State, s.Inv → step s = .next t → t.Inv

/-- Memories in canonical form that list the same bytes are equal data (log 4). -/
def Obligations.CanonicalMemoriesThatListTheSameBytesAreEqual : Prop :=
  ∀ m n : List Host.Cell, Memory.wf m → Memory.wf n → (∀ a, Memory.lookup m a = Memory.lookup n a) → m = n

/-! ### Whole-machine rules -/

/-- THE ACCESS MATRIX (10_state.md R35): every instruction that completes leaves all but `pc` and its row's written
state unchanged; one that faults leaves all but the latch unchanged. -/
def Obligations.InstructionsStayWithinTheAccessMatrix : Prop :=
  ∀ (i : Instr) (s t : State), s.running → exec i s = .next t →
    if t.running then Frame (accessMatrix i s) s t
    else t = { s with FAULT := t.FAULT, FAULT_PC := s.pc, FAULT_OP := encode i }

/-- No instruction other than 2nnn and 00EE reaches the call stack (10_state.md R21): it writes neither an entry nor
`SP`, and it reads neither, since with any other stack in their place it does the same to everything else. -/
def Obligations.StackIsReachedByCallAndReturnAlone : Prop :=
  ∀ (i : Instr) (s t : State), exec i s = .next t → (∀ nnn, i ≠ .call nnn) → i ≠ .ret →
    t.STK = s.STK ∧ t.SP = s.SP ∧
    ∀ (stk : Vector Word 16) (sp : Fin 17), exec i (s.setStack stk sp) = .next (t.setStack stk sp)

/-- No instruction other than Fx33 and Fx55 writes memory (20_memory.md R46, 44_index_memory.md R115). -/
def Obligations.MemoryIsWrittenByTwoInstructionsAlone : Prop :=
  ∀ (i : Instr) (s t : State), exec i s = .next t → (∀ x, i ≠ .ldB x) → (∀ x, i ≠ .storeRegs x) →
    ∀ a, t.memRead a = s.memRead a

/-- `I` is written by Annn, Fx1E, Fx29 and, when `storeShiftsI` is true, by Fx55 and Fx65, and by no other
instruction (10_state.md R16). -/
def Obligations.IndexIsWrittenByItsInstructionsAlone : Prop :=
  ∀ (i : Instr) (s t : State), exec i s = .next t → t.I ≠ s.I →
    (∃ nnn, i = .ldI nnn) ∨ (∃ x, i = .addI x) ∨ (∃ x, i = .ldF x) ∨
    (s.straps.storeShiftsI = true ∧ ((∃ x, i = .storeRegs x) ∨ ∃ x, i = .loadRegs x))

/-- The timers are written by Fx15 and Fx18 and by no other instruction (10_state.md R23, R24). -/
def Obligations.TimersAreWrittenByTheirInstructionsAlone : Prop :=
  ∀ (i : Instr) (s t : State), exec i s = .next t →
    ((∀ x, i ≠ .ldDTVx x) → t.DT = s.DT) ∧ ((∀ x, i ≠ .ldSTVx x) → t.ST = s.ST)

/-- The straps are constant for the life of the core, across resets (00_scope.md R5). -/
def Obligations.NoStepChangesTheStraps : Prop :=
  ∀ s t : State, step s = .next t → t.straps = s.straps

/-- Only a reset clears the fault latch, the reset event (60_exceptions.md R134) or the reset that ends a preload
(70_reset_and_hazards.md R162); every other event keeps the cause, the address and the opcode. That a preload may come
in any state is the model's choice (log 18), and the next event is log 1's. -/
def Obligations.OnlyAResetClearsTheFaultLatch : Prop :=
  ∀ (s t : State) (c : Cause), s.FAULT = some c → step s = .next t →
    s.nextEvent = .reset ∨ (∃ font image, s.nextEvent = .preload font image) ∨
    (t.FAULT = some c ∧ t.FAULT_PC = s.FAULT_PC ∧ t.FAULT_OP = s.FAULT_OP)

/-- An instruction that writes VF as a flag leaves it 0 or 1, whatever its destination, unless it faults
(10_state.md R14). -/
def Obligations.FlagWritersLeaveZeroOrOne : Prop :=
  ∀ (i : Instr) (s t : State), s.running → exec i s = .next t → t.running →
    (∃ x y, i = .addReg x y ∨ i = .subReg x y ∨ i = .shr x y ∨ i = .subnReg x y ∨ i = .shl x y ∨
      ∃ n, i = .drw x y n) →
    t.getV 15 = 0 ∨ t.getV 15 = 1

/-! ### Display instructions and the display -/

/-- 00E0 (40_display.md R80) sends `DispClear`, which turns every pixel off (60_exceptions.md R147). -/
def Obligations.ClsClearsTheDisplay : Prop :=
  decodeWord 0x00E0 = .ok .cls ∧
  ∀ s : State, ∃ t, exec .cls s = .next t ∧ t.out = s.out ++ [.dispClear] ∧ (∀ r c, t.display.pix r c = false) ∧
    t.display.width = s.display.width ∧ t.display.height = s.display.height ∧
    t.pc = s.pc + 2 ∧ Frame { device := true } s t

/-- Dxyn (40_display.md R81): the rows are read ascending from `I`, one command goes out with the unreduced
coordinates, VF takes the answer of the display last; n = 0 draws nothing and clears VF; out of bounds, the fault. -/
def Obligations.DrwSendsOneDrawCommandAndSetsVF : Prop :=
  ∀ (x y : Reg) (n : Nat) (s : State), n < 16 →
    decodeWord (0xD#4 ++ x ++ y ++ BitVec.ofNat 4 n) = .ok (.drw x y n) ∧
    ((n = 0 ∨ s.I.toNat + n - 1 ≤ 4095) → ∃ t rows, exec (.drw x y n) s = .next t ∧
      rows.length = n ∧ (∀ r, r < n → rows[r]? = some (s.memRead (s.I.toNat + r))) ∧
      t.out = s.out ++ [.dispDraw (s.getV x) (s.getV y) rows (BitVec.ofNat 8 n)] ∧
      t.display = (s.display.draw (s.getV x) (s.getV y) rows n).2 ∧
      t.getV 15 = (if (s.display.draw (s.getV x) (s.getV y) rows n).1 then 1 else 0) ∧
      (n = 0 → t.display = s.display ∧ t.getV 15 = 0) ∧
      t.pc = s.pc + 2 ∧ Frame { regs := [15], device := true } s t) ∧
    (n ≥ 1 ∧ s.I.toNat + n - 1 > 4095 → exec (.drw x y n) s = .next
      { s with FAULT := some .dataAddress, FAULT_PC := s.pc, FAULT_OP := 0xD#4 ++ x ++ y ++ BitVec.ofNat 4 n })

/-- `DispDraw` XORs the sprite into the surface from the wrapped origin, clipped at the right and bottom edges, and
answers whether a pixel went from on to off (60_exceptions.md R148). That bit 7 of a row is its leftmost pixel is
general knowledge in the spec (log 11). -/
def Obligations.DrawXorsTheSpriteAndReportsCollision : Prop :=
  ∀ (d : Display) (x y : Byte) (rows : List Byte), d.wf →
    let drawn := d.draw x y rows rows.length
    let x0 := x.toNat % d.width
    let y0 := y.toNat % d.height
    (∀ r c, r < d.height → c < d.width →
      drawn.2.pix r c = (d.pix r c ^^ (decide (y0 ≤ r) && decide (x0 ≤ c) && decide (c - x0 < 8) &&
        ((rows[r - y0]?).getD 0).getLsbD (7 - (c - x0))))) ∧
    (drawn.1 = true ↔ ∃ r c, d.pix r c = true ∧ drawn.2.pix r c = false) ∧
    drawn.2.width = d.width ∧ drawn.2.height = d.height

/-- Drawing the same sprite twice at the same place gives back the same surface, as data (60_exceptions.md R148). -/
def Obligations.DrawingTwiceRestoresTheSurface : Prop :=
  ∀ (d : Display) (x y : Byte) (rows : List Byte) (h : Nat), d.wf →
    ((d.draw x y rows h).2.draw x y rows h).2 = d

/-! ### Control transfer -/

/-- 1nnn (41_control_flow.md R86). -/
def Obligations.JpSetsPcToTheAddress : Prop :=
  ∀ (nnn : BitVec 12) (s : State), decodeWord (0x1#4 ++ nnn) = .ok (.jp nnn) ∧
    ∃ t, exec (.jp nnn) s = .next t ∧ t.pc.toNat = nnn.toNat ∧ Frame {} s t

/-- Bnnn (41_control_flow.md R88): the unreduced sum of nnn and, by the strap, Vx or V0. -/
def Obligations.JpoSetsPcToTheAddressPlusTheOffset : Prop :=
  ∀ (nnn : BitVec 12) (s : State), decodeWord (0xB#4 ++ nnn) = .ok (.jpo nnn) ∧
    ∃ t, exec (.jpo nnn) s = .next t ∧
      t.pc.toNat = nnn.toNat +
        (if s.straps.jumpAddsVx then s.getV (BitVec.ofNat 4 (nnn.toNat / 256)) else s.getV 0).toNat ∧
      Frame {} s t

/-- 2nnn (41_control_flow.md R87): with fewer than 16 entries in use it pushes the address after the call and jumps;
with 16 it latches STACK_OVERFLOW. -/
def Obligations.CallPushesTheNextAddressAndJumps : Prop :=
  ∀ (nnn : BitVec 12) (s : State), decodeWord (0x2#4 ++ nnn) = .ok (.call nnn) ∧
    (s.SP.val < 16 → ∃ t, exec (.call nnn) s = .next t ∧ t.pc.toNat = nnn.toNat ∧
      t.STK[s.SP.val]? = some (s.pc + 2) ∧ (∀ k : Nat, k ≠ s.SP.val → t.STK[k]? = s.STK[k]?) ∧
      t.SP.val = s.SP.val + 1 ∧ Frame { stack := true } s t) ∧
    (s.SP.val = 16 → exec (.call nnn) s = .next
      { s with FAULT := some .stackOverflow, FAULT_PC := s.pc, FAULT_OP := 0x2#4 ++ nnn })

/-- 00EE (41_control_flow.md R85): with an entry in use it pops it into `pc`; with none it latches STACK_UNDERFLOW. -/
def Obligations.RetPopsTheNewestEntryIntoPc : Prop :=
  decodeWord 0x00EE = .ok .ret ∧
  ∀ s : State,
    (s.SP.val > 0 → ∃ t, exec .ret s = .next t ∧ s.STK[s.SP.val - 1]? = some t.pc ∧ t.STK = s.STK ∧
      t.SP.val = s.SP.val - 1 ∧ Frame { stack := true } s t) ∧
    (s.SP.val = 0 → exec .ret s = .next
      { s with FAULT := some .stackUnderflow, FAULT_PC := s.pc, FAULT_OP := 0x00EE })

/-- A return that finds the stack as the call left it resumes at the address immediately following the call
(41_control_flow.md R85). -/
def Obligations.ReturnResumesAfterTheMatchingCall : Prop :=
  ∀ (nnn : BitVec 12) (s : State), s.SP.val < 16 → ∃ t, exec (.call nnn) s = .next t ∧
    ∀ u : State, u.STK = t.STK → u.SP = t.SP →
      ∃ w, exec .ret u = .next w ∧ w.pc = s.pc + 2 ∧ w.SP = s.SP

/-! ### Skips -/

/-- 3xnn, 4xnn, 5xy0, 9xy0 (42_skip.md R90 to R93): `pc` ends 4 on when the condition holds and 2 on when not. -/
def Obligations.RegisterSkipsTestTheirCondition : Prop :=
  ∀ (x y : Reg) (nn : Byte) (s : State),
    (decodeWord (0x3#4 ++ x ++ nn) = .ok (.seImm x nn) ∧ ∃ t, exec (.seImm x nn) s = .next t ∧
      t.pc = (if (s.getV x).toNat = nn.toNat then s.pc + 4 else s.pc + 2) ∧ Frame {} s t) ∧
    (decodeWord (0x4#4 ++ x ++ nn) = .ok (.sneImm x nn) ∧ ∃ t, exec (.sneImm x nn) s = .next t ∧
      t.pc = (if (s.getV x).toNat = nn.toNat then s.pc + 2 else s.pc + 4) ∧ Frame {} s t) ∧
    (decodeWord (0x5#4 ++ x ++ y ++ 0x0#4) = .ok (.seReg x y) ∧ ∃ t, exec (.seReg x y) s = .next t ∧
      t.pc = (if (s.getV x).toNat = (s.getV y).toNat then s.pc + 4 else s.pc + 2) ∧ Frame {} s t) ∧
    (decodeWord (0x9#4 ++ x ++ y ++ 0x0#4) = .ok (.sneReg x y) ∧ ∃ t, exec (.sneReg x y) s = .next t ∧
      t.pc = (if (s.getV x).toNat = (s.getV y).toNat then s.pc + 2 else s.pc + 4) ∧ Frame {} s t)

/-- Ex9E and ExA1 (42_skip.md R94, R95): the key numbered by the low four bits of Vx, in the mask the host
presents. -/
def Obligations.KeySkipsTestTheSelectedKey : Prop :=
  ∀ (x : Reg) (s : State),
    (decodeWord (0xE#4 ++ x ++ 0x9E#8) = .ok (.skp x) ∧ ∃ t, exec (.skp x) s = .next t ∧
      t.pc = (if s.KEYS.getLsbD ((s.getV x).toNat % 16) then s.pc + 4 else s.pc + 2) ∧ Frame {} s t) ∧
    (decodeWord (0xE#4 ++ x ++ 0xA1#8) = .ok (.sknp x) ∧ ∃ t, exec (.sknp x) s = .next t ∧
      t.pc = (if s.KEYS.getLsbD ((s.getV x).toNat % 16) then s.pc + 2 else s.pc + 4) ∧ Frame {} s t)

/-! ### Load, arithmetic, logic, shift, random -/

/-- 6xnn and 8xy0 (43_alu.md R98, R100). -/
def Obligations.LoadsWriteTheirOperandToVx : Prop :=
  ∀ (x y : Reg) (nn : Byte) (s : State),
    (decodeWord (0x6#4 ++ x ++ nn) = .ok (.ldImm x nn) ∧ ∃ t, exec (.ldImm x nn) s = .next t ∧
      t.getV x = nn ∧ t.pc = s.pc + 2 ∧ Frame { regs := [x] } s t) ∧
    (decodeWord (0x8#4 ++ x ++ y ++ 0x0#4) = .ok (.ldReg x y) ∧ ∃ t, exec (.ldReg x y) s = .next t ∧
      t.getV x = s.getV y ∧ t.pc = s.pc + 2 ∧ Frame { regs := [x] } s t)

/-- 7xnn (43_alu.md R99): the sum modulo 256; VF is not written unless it is Vx. -/
def Obligations.AddImmediateWrapsAndSetsNoFlag : Prop :=
  ∀ (x : Reg) (nn : Byte) (s : State), decodeWord (0x7#4 ++ x ++ nn) = .ok (.addImm x nn) ∧
    ∃ t, exec (.addImm x nn) s = .next t ∧ (t.getV x).toNat = ((s.getV x).toNat + nn.toNat) % 256 ∧
      t.pc = s.pc + 2 ∧ Frame { regs := [x] } s t

/-- 8xy1, 8xy2, 8xy3 (43_alu.md R101 to R103), bit by bit; VF is not written unless it is Vx. -/
def Obligations.LogicOperationsWorkBitByBit : Prop :=
  ∀ (x y : Reg) (s : State),
    (decodeWord (0x8#4 ++ x ++ y ++ 0x1#4) = .ok (.orReg x y) ∧ ∃ t, exec (.orReg x y) s = .next t ∧
      (∀ k, (t.getV x).getLsbD k = ((s.getV x).getLsbD k || (s.getV y).getLsbD k)) ∧
      t.pc = s.pc + 2 ∧ Frame { regs := [x] } s t) ∧
    (decodeWord (0x8#4 ++ x ++ y ++ 0x2#4) = .ok (.andReg x y) ∧ ∃ t, exec (.andReg x y) s = .next t ∧
      (∀ k, (t.getV x).getLsbD k = ((s.getV x).getLsbD k && (s.getV y).getLsbD k)) ∧
      t.pc = s.pc + 2 ∧ Frame { regs := [x] } s t) ∧
    (decodeWord (0x8#4 ++ x ++ y ++ 0x3#4) = .ok (.xorReg x y) ∧ ∃ t, exec (.xorReg x y) s = .next t ∧
      (∀ k, (t.getV x).getLsbD k = ((s.getV x).getLsbD k ^^ (s.getV y).getLsbD k)) ∧
      t.pc = s.pc + 2 ∧ Frame { regs := [x] } s t)

/-- 8xy4 (43_alu.md R104): the sum modulo 256 in Vx, then the carry in VF; with x = 15 the flag stays. -/
def Obligations.AddSetsTheCarryLast : Prop :=
  ∀ (x y : Reg) (s : State), decodeWord (0x8#4 ++ x ++ y ++ 0x4#4) = .ok (.addReg x y) ∧
    ∃ t, exec (.addReg x y) s = .next t ∧
      (x ≠ 15 → (t.getV x).toNat = ((s.getV x).toNat + (s.getV y).toNat) % 256) ∧
      t.getV 15 = (if (s.getV x).toNat + (s.getV y).toNat > 255 then 1 else 0) ∧
      t.pc = s.pc + 2 ∧ Frame { regs := [x, 15] } s t

/-- 8xy5 and 8xy7 (43_alu.md R105, R107): the difference modulo 256 in Vx, then no-borrow in VF; with x = 15 the flag
stays. -/
def Obligations.SubtractionsSetNoBorrowLast : Prop :=
  ∀ (x y : Reg) (s : State),
    (decodeWord (0x8#4 ++ x ++ y ++ 0x5#4) = .ok (.subReg x y) ∧ ∃ t, exec (.subReg x y) s = .next t ∧
      (x ≠ 15 → ((t.getV x).toNat : Int) = ((s.getV x).toNat - (s.getV y).toNat : Int) % 256) ∧
      t.getV 15 = (if (s.getV x).toNat ≥ (s.getV y).toNat then 1 else 0) ∧
      t.pc = s.pc + 2 ∧ Frame { regs := [x, 15] } s t) ∧
    (decodeWord (0x8#4 ++ x ++ y ++ 0x7#4) = .ok (.subnReg x y) ∧ ∃ t, exec (.subnReg x y) s = .next t ∧
      (x ≠ 15 → ((t.getV x).toNat : Int) = ((s.getV y).toNat - (s.getV x).toNat : Int) % 256) ∧
      t.getV 15 = (if (s.getV y).toNat ≥ (s.getV x).toNat then 1 else 0) ∧
      t.pc = s.pc + 2 ∧ Frame { regs := [x, 15] } s t)

/-- 8xy6 and 8xyE (43_alu.md R106, R108): one place, of Vy or Vx by the strap, then the bit shifted out in VF; with
x = 15 the flag stays. -/
def Obligations.ShiftsMoveOneBitIntoVF : Prop :=
  ∀ (x y : Reg) (s : State),
    let v := (if s.straps.shiftUsesVy then s.getV y else s.getV x).toNat
    (decodeWord (0x8#4 ++ x ++ y ++ 0x6#4) = .ok (.shr x y) ∧ ∃ t, exec (.shr x y) s = .next t ∧
      (x ≠ 15 → (t.getV x).toNat = v / 2) ∧ (t.getV 15).toNat = v % 2 ∧
      t.pc = s.pc + 2 ∧ Frame { regs := [x, 15] } s t) ∧
    (decodeWord (0x8#4 ++ x ++ y ++ 0xE#4) = .ok (.shl x y) ∧ ∃ t, exec (.shl x y) s = .next t ∧
      (x ≠ 15 → (t.getV x).toNat = v * 2 % 256) ∧ (t.getV 15).toNat = v / 128 ∧
      t.pc = s.pc + 2 ∧ Frame { regs := [x, 15] } s t)

/-- Cxnn (43_alu.md R112): the tick's random byte, masked; every bit outside the mask is 0. That each draw is a free
value with an index of its own is the model's form of the random input (log 5). -/
def Obligations.RndMasksTheRandomByte : Prop :=
  ∀ (x : Reg) (nn : Byte) (s : State), decodeWord (0xC#4 ++ x ++ nn) = .ok (.rnd x nn) ∧
    ∃ t, exec (.rnd x nn) s = .next t ∧
      (∀ k, (t.getV x).getLsbD k = ((Config.randomByte s.freeIndex).getLsbD k && nn.getLsbD k)) ∧
      t.getV x &&& ~~~nn = 0 ∧ t.freeIndex = s.freeIndex + 1 ∧
      t.pc = s.pc + 2 ∧ Frame { regs := [x], random := true } s t

/-! ### Index register and memory -/

/-- Annn, Fx1E, Fx29 (44_index_memory.md R113, R114, R116). -/
def Obligations.IndexInstructionsSetI : Prop :=
  ∀ (nnn : BitVec 12) (x : Reg) (s : State),
    (decodeWord (0xA#4 ++ nnn) = .ok (.ldI nnn) ∧ ∃ t, exec (.ldI nnn) s = .next t ∧
      t.I.toNat = nnn.toNat ∧ t.pc = s.pc + 2 ∧ Frame { index := true } s t) ∧
    (decodeWord (0xF#4 ++ x ++ 0x1E#8) = .ok (.addI x) ∧ ∃ t, exec (.addI x) s = .next t ∧
      t.I.toNat = (s.I.toNat + (s.getV x).toNat) % 65536 ∧ t.pc = s.pc + 2 ∧ Frame { index := true } s t) ∧
    (decodeWord (0xF#4 ++ x ++ 0x29#8) = .ok (.ldF x) ∧ ∃ t, exec (.ldF x) s = .next t ∧
      t.I.toNat = 0x50 + (s.getV x).toNat % 16 * 5 ∧ t.pc = s.pc + 2 ∧ Frame { index := true } s t)

/-- Fx33 (44_index_memory.md R117): the three decimal digits at `I`, `I + 1`, `I + 2`, or the fault. -/
def Obligations.LdBStoresTheDecimalDigits : Prop :=
  ∀ (x : Reg) (s : State), decodeWord (0xF#4 ++ x ++ 0x33#8) = .ok (.ldB x) ∧
    (s.I.toNat + 2 ≤ 4095 → ∃ t, exec (.ldB x) s = .next t ∧
      (t.memRead s.I.toNat).toNat = (s.getV x).toNat / 100 ∧
      (t.memRead (s.I.toNat + 1)).toNat = (s.getV x).toNat / 10 % 10 ∧
      (t.memRead (s.I.toNat + 2)).toNat = (s.getV x).toNat % 10 ∧
      t.pc = s.pc + 2 ∧ Frame { memFrom := s.I.toNat, memCount := 3 } s t) ∧
    (s.I.toNat + 2 > 4095 → exec (.ldB x) s = .next
      { s with FAULT := some .dataAddress, FAULT_PC := s.pc, FAULT_OP := 0xF#4 ++ x ++ 0x33#8 })

/-- Fx55 (44_index_memory.md R118): V0 to Vx to memory from `I`, with the strap's post-increment, or the fault. -/
def Obligations.StoreRegsWritesV0ToVxToMemory : Prop :=
  ∀ (x : Reg) (s : State), decodeWord (0xF#4 ++ x ++ 0x55#8) = .ok (.storeRegs x) ∧
    (s.I.toNat + x.toNat ≤ 4095 → ∃ t, exec (.storeRegs x) s = .next t ∧
      (∀ r : Reg, r.toNat ≤ x.toNat → t.memRead (s.I.toNat + r.toNat) = s.getV r) ∧
      t.I.toNat = (if s.straps.storeShiftsI then s.I.toNat + x.toNat + 1 else s.I.toNat) ∧
      t.pc = s.pc + 2 ∧ Frame { index := true, memFrom := s.I.toNat, memCount := x.toNat + 1 } s t) ∧
    (s.I.toNat + x.toNat > 4095 → exec (.storeRegs x) s = .next
      { s with FAULT := some .dataAddress, FAULT_PC := s.pc, FAULT_OP := 0xF#4 ++ x ++ 0x55#8 })

/-- Fx65 (44_index_memory.md R119): V0 to Vx from memory at `I`, registers above x unchanged, with the strap's
post-increment, or the fault. -/
def Obligations.LoadRegsReadsV0ToVxFromMemory : Prop :=
  ∀ (x : Reg) (s : State), decodeWord (0xF#4 ++ x ++ 0x65#8) = .ok (.loadRegs x) ∧
    (s.I.toNat + x.toNat ≤ 4095 → ∃ t, exec (.loadRegs x) s = .next t ∧
      (∀ r : Reg, t.getV r = if r.toNat ≤ x.toNat then s.memRead (s.I.toNat + r.toNat) else s.getV r) ∧
      t.I.toNat = (if s.straps.storeShiftsI then s.I.toNat + x.toNat + 1 else s.I.toNat) ∧
      t.pc = s.pc + 2 ∧
      Frame { regs := (List.range (x.toNat + 1)).map (BitVec.ofNat 4), index := true } s t) ∧
    (s.I.toNat + x.toNat > 4095 → exec (.loadRegs x) s = .next
      { s with FAULT := some .dataAddress, FAULT_PC := s.pc, FAULT_OP := 0xF#4 ++ x ++ 0x65#8 })

/-- Fx55 then Fx65 with the same x and the same `I` restores V0 to Vx, in both dialects, whatever happened to the
registers in between (44_index_memory.md R119, 90_conflicts.md C6). -/
def Obligations.StoreThenLoadRestoresTheRegisters : Prop :=
  ∀ (x : Reg) (s : State), s.I.toNat + x.toNat ≤ 4095 → ∃ t, exec (.storeRegs x) s = .next t ∧
    ∀ u : State, (∀ a, u.memRead a = t.memRead a) → u.I = s.I →
      ∃ w, exec (.loadRegs x) u = .next w ∧ ∀ r : Reg, r.toNat ≤ x.toNat → w.getV r = s.getV r

/-- A store is seen by the very next fetch: an Fx55 that stores at the address after itself gives the word the next
tick fetches (20_memory.md R53). -/
def Obligations.StoreIsSeenByTheNextFetch : Prop :=
  ∀ (x : Reg) (s : State), s.I = s.pc + 2 → s.I.toNat + x.toNat ≤ 4095 → x.toNat ≥ 1 →
    ∃ t, exec (.storeRegs x) s = .next t ∧ t.pc = s.I ∧ t.fetchWord = some (s.getV 0 ++ s.getV 1)

/-! ### Timers and key wait -/

/-- Fx07, Fx15, Fx18 (45_timer_key.md R121, R123, R124); `sound_active` follows ST at once. -/
def Obligations.TimerInstructionsMoveTheTimers : Prop :=
  ∀ (x : Reg) (s : State),
    (decodeWord (0xF#4 ++ x ++ 0x07#8) = .ok (.ldVxDT x) ∧ ∃ t, exec (.ldVxDT x) s = .next t ∧
      t.getV x = s.DT ∧ t.pc = s.pc + 2 ∧ Frame { regs := [x] } s t) ∧
    (decodeWord (0xF#4 ++ x ++ 0x15#8) = .ok (.ldDTVx x) ∧ ∃ t, exec (.ldDTVx x) s = .next t ∧
      t.DT = s.getV x ∧ t.pc = s.pc + 2 ∧ Frame { delay := true } s t) ∧
    (decodeWord (0xF#4 ++ x ++ 0x18#8) = .ok (.ldSTVx x) ∧ ∃ t, exec (.ldSTVx x) s = .next t ∧
      t.ST = s.getV x ∧ (t.soundActive = true ↔ s.getV x ≠ 0) ∧ t.pc = s.pc + 2 ∧ Frame { sound := true } s t)

/-- Fx0A (45_timer_key.md R122): with no key down the tick changes nothing; with keys down the least one goes to
Vx. -/
def Obligations.KeyWaitRepeatsUntilAKeyIsDown : Prop :=
  ∀ (x : Reg) (s : State), decodeWord (0xF#4 ++ x ++ 0x0A#8) = .ok (.ldVxK x) ∧
    (s.KEYS = 0 → exec (.ldVxK x) s = .next s) ∧
    (s.KEYS ≠ 0 → ∃ t k, exec (.ldVxK x) s = .next t ∧ (t.getV x).toNat = k ∧ k < 16 ∧
      s.KEYS.getLsbD k = true ∧ (∀ j, j < k → s.KEYS.getLsbD j = false) ∧
      t.pc = s.pc + 2 ∧ Frame { regs := [x] } s t)

/-! ### The keypad mask within a host iteration -/

/-- In one host iteration a new keypad mask is in place before the instruction that reads it: an Ex9E of that
iteration tests the mask the iteration brought (60_exceptions.md R135, 10_state.md R26; the schedule is log 1). -/
def Obligations.NewMaskPrecedesTheInstructionOfItsIteration : Prop :=
  ∀ (s : State) (x : Reg) (mask : BitVec 16) (rest : List HostEvent),
    s.schedule =
      HostIteration.events { reset := false, keys := some mask, timerTick := false, instrTick := true } ++ rest →
    s.running → s.pc.toNat + 1 ≤ 4095 → decode (s.readBytes s.pc.toNat 2) = .ok (.skp x, []) →
    ∃ t : State, Host.Core.run core 2 s = .next t ∧
      t.pc = (if mask.getLsbD ((s.getV x).toNat % 16) then s.pc + 4 else s.pc + 2) ∧ t.KEYS = mask ∧
      t.schedule = rest
end

