-- ==== Sys2Proof/Laws/State.lean ====
section
/-! SUPPORT. What each update of the state leaves in each field: one lemma a field and update, so that no proof
unfolds a record update. -/

namespace Sys2Proof.Machine

/-! ### setV -/

@[simp] theorem State.setV_V (s : State) (x : Reg) (b : Byte) : (s.setV x b).V = s.V.set x.toNat b x.isLt := rfl
@[simp] theorem State.setV_I (s : State) (x : Reg) (b : Byte) : (s.setV x b).I = s.I := rfl
@[simp] theorem State.setV_pc (s : State) (x : Reg) (b : Byte) : (s.setV x b).pc = s.pc := rfl
@[simp] theorem State.setV_STK (s : State) (x : Reg) (b : Byte) : (s.setV x b).STK = s.STK := rfl
@[simp] theorem State.setV_SP (s : State) (x : Reg) (b : Byte) : (s.setV x b).SP = s.SP := rfl
@[simp] theorem State.setV_DT (s : State) (x : Reg) (b : Byte) : (s.setV x b).DT = s.DT := rfl
@[simp] theorem State.setV_ST (s : State) (x : Reg) (b : Byte) : (s.setV x b).ST = s.ST := rfl
@[simp] theorem State.setV_MEM (s : State) (x : Reg) (b : Byte) : (s.setV x b).MEM = s.MEM := rfl
@[simp] theorem State.setV_memEpoch (s : State) (x : Reg) (b : Byte) : (s.setV x b).memEpoch = s.memEpoch := rfl
@[simp] theorem State.setV_FAULT (s : State) (x : Reg) (b : Byte) : (s.setV x b).FAULT = s.FAULT := rfl
@[simp] theorem State.setV_FAULT_PC (s : State) (x : Reg) (b : Byte) : (s.setV x b).FAULT_PC = s.FAULT_PC := rfl
@[simp] theorem State.setV_FAULT_OP (s : State) (x : Reg) (b : Byte) : (s.setV x b).FAULT_OP = s.FAULT_OP := rfl
@[simp] theorem State.setV_straps (s : State) (x : Reg) (b : Byte) : (s.setV x b).straps = s.straps := rfl
@[simp] theorem State.setV_KEYS (s : State) (x : Reg) (b : Byte) : (s.setV x b).KEYS = s.KEYS := rfl
@[simp] theorem State.setV_display (s : State) (x : Reg) (b : Byte) : (s.setV x b).display = s.display := rfl
@[simp] theorem State.setV_schedule (s : State) (x : Reg) (b : Byte) : (s.setV x b).schedule = s.schedule := rfl
@[simp] theorem State.setV_eventIndex (s : State) (x : Reg) (b : Byte) : (s.setV x b).eventIndex = s.eventIndex := rfl
@[simp] theorem State.setV_out (s : State) (x : Reg) (b : Byte) : (s.setV x b).out = s.out := rfl
@[simp] theorem State.setV_freeIndex (s : State) (x : Reg) (b : Byte) : (s.setV x b).freeIndex = s.freeIndex := rfl

/-! ### setI -/

@[simp] theorem State.setI_V (s : State) (v : Word) : (s.setI v).V = s.V := rfl
@[simp] theorem State.setI_I (s : State) (v : Word) : (s.setI v).I = v := rfl
@[simp] theorem State.setI_pc (s : State) (v : Word) : (s.setI v).pc = s.pc := rfl
@[simp] theorem State.setI_STK (s : State) (v : Word) : (s.setI v).STK = s.STK := rfl
@[simp] theorem State.setI_SP (s : State) (v : Word) : (s.setI v).SP = s.SP := rfl
@[simp] theorem State.setI_DT (s : State) (v : Word) : (s.setI v).DT = s.DT := rfl
@[simp] theorem State.setI_ST (s : State) (v : Word) : (s.setI v).ST = s.ST := rfl
@[simp] theorem State.setI_MEM (s : State) (v : Word) : (s.setI v).MEM = s.MEM := rfl
@[simp] theorem State.setI_memEpoch (s : State) (v : Word) : (s.setI v).memEpoch = s.memEpoch := rfl
@[simp] theorem State.setI_FAULT (s : State) (v : Word) : (s.setI v).FAULT = s.FAULT := rfl
@[simp] theorem State.setI_FAULT_PC (s : State) (v : Word) : (s.setI v).FAULT_PC = s.FAULT_PC := rfl
@[simp] theorem State.setI_FAULT_OP (s : State) (v : Word) : (s.setI v).FAULT_OP = s.FAULT_OP := rfl
@[simp] theorem State.setI_straps (s : State) (v : Word) : (s.setI v).straps = s.straps := rfl
@[simp] theorem State.setI_KEYS (s : State) (v : Word) : (s.setI v).KEYS = s.KEYS := rfl
@[simp] theorem State.setI_display (s : State) (v : Word) : (s.setI v).display = s.display := rfl
@[simp] theorem State.setI_schedule (s : State) (v : Word) : (s.setI v).schedule = s.schedule := rfl
@[simp] theorem State.setI_eventIndex (s : State) (v : Word) : (s.setI v).eventIndex = s.eventIndex := rfl
@[simp] theorem State.setI_out (s : State) (v : Word) : (s.setI v).out = s.out := rfl
@[simp] theorem State.setI_freeIndex (s : State) (v : Word) : (s.setI v).freeIndex = s.freeIndex := rfl

/-! ### setPc -/

@[simp] theorem State.setPc_V (s : State) (v : Word) : (s.setPc v).V = s.V := rfl
@[simp] theorem State.setPc_I (s : State) (v : Word) : (s.setPc v).I = s.I := rfl
@[simp] theorem State.setPc_pc (s : State) (v : Word) : (s.setPc v).pc = v := rfl
@[simp] theorem State.setPc_STK (s : State) (v : Word) : (s.setPc v).STK = s.STK := rfl
@[simp] theorem State.setPc_SP (s : State) (v : Word) : (s.setPc v).SP = s.SP := rfl
@[simp] theorem State.setPc_DT (s : State) (v : Word) : (s.setPc v).DT = s.DT := rfl
@[simp] theorem State.setPc_ST (s : State) (v : Word) : (s.setPc v).ST = s.ST := rfl
@[simp] theorem State.setPc_MEM (s : State) (v : Word) : (s.setPc v).MEM = s.MEM := rfl
@[simp] theorem State.setPc_memEpoch (s : State) (v : Word) : (s.setPc v).memEpoch = s.memEpoch := rfl
@[simp] theorem State.setPc_FAULT (s : State) (v : Word) : (s.setPc v).FAULT = s.FAULT := rfl
@[simp] theorem State.setPc_FAULT_PC (s : State) (v : Word) : (s.setPc v).FAULT_PC = s.FAULT_PC := rfl
@[simp] theorem State.setPc_FAULT_OP (s : State) (v : Word) : (s.setPc v).FAULT_OP = s.FAULT_OP := rfl
@[simp] theorem State.setPc_straps (s : State) (v : Word) : (s.setPc v).straps = s.straps := rfl
@[simp] theorem State.setPc_KEYS (s : State) (v : Word) : (s.setPc v).KEYS = s.KEYS := rfl
@[simp] theorem State.setPc_display (s : State) (v : Word) : (s.setPc v).display = s.display := rfl
@[simp] theorem State.setPc_schedule (s : State) (v : Word) : (s.setPc v).schedule = s.schedule := rfl
@[simp] theorem State.setPc_eventIndex (s : State) (v : Word) : (s.setPc v).eventIndex = s.eventIndex := rfl
@[simp] theorem State.setPc_out (s : State) (v : Word) : (s.setPc v).out = s.out := rfl
@[simp] theorem State.setPc_freeIndex (s : State) (v : Word) : (s.setPc v).freeIndex = s.freeIndex := rfl

/-! ### advance -/

@[simp] theorem State.advance_V (s : State) : s.advance.V = s.V := rfl
@[simp] theorem State.advance_I (s : State) : s.advance.I = s.I := rfl
@[simp] theorem State.advance_pc (s : State) : s.advance.pc = s.pc + 2 := rfl
@[simp] theorem State.advance_STK (s : State) : s.advance.STK = s.STK := rfl
@[simp] theorem State.advance_SP (s : State) : s.advance.SP = s.SP := rfl
@[simp] theorem State.advance_DT (s : State) : s.advance.DT = s.DT := rfl
@[simp] theorem State.advance_ST (s : State) : s.advance.ST = s.ST := rfl
@[simp] theorem State.advance_MEM (s : State) : s.advance.MEM = s.MEM := rfl
@[simp] theorem State.advance_memEpoch (s : State) : s.advance.memEpoch = s.memEpoch := rfl
@[simp] theorem State.advance_FAULT (s : State) : s.advance.FAULT = s.FAULT := rfl
@[simp] theorem State.advance_FAULT_PC (s : State) : s.advance.FAULT_PC = s.FAULT_PC := rfl
@[simp] theorem State.advance_FAULT_OP (s : State) : s.advance.FAULT_OP = s.FAULT_OP := rfl
@[simp] theorem State.advance_straps (s : State) : s.advance.straps = s.straps := rfl
@[simp] theorem State.advance_KEYS (s : State) : s.advance.KEYS = s.KEYS := rfl
@[simp] theorem State.advance_display (s : State) : s.advance.display = s.display := rfl
@[simp] theorem State.advance_schedule (s : State) : s.advance.schedule = s.schedule := rfl
@[simp] theorem State.advance_eventIndex (s : State) : s.advance.eventIndex = s.eventIndex := rfl
@[simp] theorem State.advance_out (s : State) : s.advance.out = s.out := rfl
@[simp] theorem State.advance_freeIndex (s : State) : s.advance.freeIndex = s.freeIndex := rfl

/-! ### setDT -/

@[simp] theorem State.setDT_V (s : State) (b : Byte) : (s.setDT b).V = s.V := rfl
@[simp] theorem State.setDT_I (s : State) (b : Byte) : (s.setDT b).I = s.I := rfl
@[simp] theorem State.setDT_pc (s : State) (b : Byte) : (s.setDT b).pc = s.pc := rfl
@[simp] theorem State.setDT_STK (s : State) (b : Byte) : (s.setDT b).STK = s.STK := rfl
@[simp] theorem State.setDT_SP (s : State) (b : Byte) : (s.setDT b).SP = s.SP := rfl
@[simp] theorem State.setDT_DT (s : State) (b : Byte) : (s.setDT b).DT = b := rfl
@[simp] theorem State.setDT_ST (s : State) (b : Byte) : (s.setDT b).ST = s.ST := rfl
@[simp] theorem State.setDT_MEM (s : State) (b : Byte) : (s.setDT b).MEM = s.MEM := rfl
@[simp] theorem State.setDT_memEpoch (s : State) (b : Byte) : (s.setDT b).memEpoch = s.memEpoch := rfl
@[simp] theorem State.setDT_FAULT (s : State) (b : Byte) : (s.setDT b).FAULT = s.FAULT := rfl
@[simp] theorem State.setDT_FAULT_PC (s : State) (b : Byte) : (s.setDT b).FAULT_PC = s.FAULT_PC := rfl
@[simp] theorem State.setDT_FAULT_OP (s : State) (b : Byte) : (s.setDT b).FAULT_OP = s.FAULT_OP := rfl
@[simp] theorem State.setDT_straps (s : State) (b : Byte) : (s.setDT b).straps = s.straps := rfl
@[simp] theorem State.setDT_KEYS (s : State) (b : Byte) : (s.setDT b).KEYS = s.KEYS := rfl
@[simp] theorem State.setDT_display (s : State) (b : Byte) : (s.setDT b).display = s.display := rfl
@[simp] theorem State.setDT_schedule (s : State) (b : Byte) : (s.setDT b).schedule = s.schedule := rfl
@[simp] theorem State.setDT_eventIndex (s : State) (b : Byte) : (s.setDT b).eventIndex = s.eventIndex := rfl
@[simp] theorem State.setDT_out (s : State) (b : Byte) : (s.setDT b).out = s.out := rfl
@[simp] theorem State.setDT_freeIndex (s : State) (b : Byte) : (s.setDT b).freeIndex = s.freeIndex := rfl

/-! ### setST -/

@[simp] theorem State.setST_V (s : State) (b : Byte) : (s.setST b).V = s.V := rfl
@[simp] theorem State.setST_I (s : State) (b : Byte) : (s.setST b).I = s.I := rfl
@[simp] theorem State.setST_pc (s : State) (b : Byte) : (s.setST b).pc = s.pc := rfl
@[simp] theorem State.setST_STK (s : State) (b : Byte) : (s.setST b).STK = s.STK := rfl
@[simp] theorem State.setST_SP (s : State) (b : Byte) : (s.setST b).SP = s.SP := rfl
@[simp] theorem State.setST_DT (s : State) (b : Byte) : (s.setST b).DT = s.DT := rfl
@[simp] theorem State.setST_ST (s : State) (b : Byte) : (s.setST b).ST = b := rfl
@[simp] theorem State.setST_MEM (s : State) (b : Byte) : (s.setST b).MEM = s.MEM := rfl
@[simp] theorem State.setST_memEpoch (s : State) (b : Byte) : (s.setST b).memEpoch = s.memEpoch := rfl
@[simp] theorem State.setST_FAULT (s : State) (b : Byte) : (s.setST b).FAULT = s.FAULT := rfl
@[simp] theorem State.setST_FAULT_PC (s : State) (b : Byte) : (s.setST b).FAULT_PC = s.FAULT_PC := rfl
@[simp] theorem State.setST_FAULT_OP (s : State) (b : Byte) : (s.setST b).FAULT_OP = s.FAULT_OP := rfl
@[simp] theorem State.setST_straps (s : State) (b : Byte) : (s.setST b).straps = s.straps := rfl
@[simp] theorem State.setST_KEYS (s : State) (b : Byte) : (s.setST b).KEYS = s.KEYS := rfl
@[simp] theorem State.setST_display (s : State) (b : Byte) : (s.setST b).display = s.display := rfl
@[simp] theorem State.setST_schedule (s : State) (b : Byte) : (s.setST b).schedule = s.schedule := rfl
@[simp] theorem State.setST_eventIndex (s : State) (b : Byte) : (s.setST b).eventIndex = s.eventIndex := rfl
@[simp] theorem State.setST_out (s : State) (b : Byte) : (s.setST b).out = s.out := rfl
@[simp] theorem State.setST_freeIndex (s : State) (b : Byte) : (s.setST b).freeIndex = s.freeIndex := rfl

/-! ### memWrite -/

@[simp] theorem State.memWrite_V (s : State) (a : Nat) (b : Byte) : (s.memWrite a b).V = s.V := rfl
@[simp] theorem State.memWrite_I (s : State) (a : Nat) (b : Byte) : (s.memWrite a b).I = s.I := rfl
@[simp] theorem State.memWrite_pc (s : State) (a : Nat) (b : Byte) : (s.memWrite a b).pc = s.pc := rfl
@[simp] theorem State.memWrite_STK (s : State) (a : Nat) (b : Byte) : (s.memWrite a b).STK = s.STK := rfl
@[simp] theorem State.memWrite_SP (s : State) (a : Nat) (b : Byte) : (s.memWrite a b).SP = s.SP := rfl
@[simp] theorem State.memWrite_DT (s : State) (a : Nat) (b : Byte) : (s.memWrite a b).DT = s.DT := rfl
@[simp] theorem State.memWrite_ST (s : State) (a : Nat) (b : Byte) : (s.memWrite a b).ST = s.ST := rfl
@[simp] theorem State.memWrite_MEM (s : State) (a : Nat) (b : Byte) : (s.memWrite a b).MEM = Memory.write s.MEM a b := rfl
@[simp] theorem State.memWrite_memEpoch (s : State) (a : Nat) (b : Byte) : (s.memWrite a b).memEpoch = s.memEpoch := rfl
@[simp] theorem State.memWrite_FAULT (s : State) (a : Nat) (b : Byte) : (s.memWrite a b).FAULT = s.FAULT := rfl
@[simp] theorem State.memWrite_FAULT_PC (s : State) (a : Nat) (b : Byte) : (s.memWrite a b).FAULT_PC = s.FAULT_PC := rfl
@[simp] theorem State.memWrite_FAULT_OP (s : State) (a : Nat) (b : Byte) : (s.memWrite a b).FAULT_OP = s.FAULT_OP := rfl
@[simp] theorem State.memWrite_straps (s : State) (a : Nat) (b : Byte) : (s.memWrite a b).straps = s.straps := rfl
@[simp] theorem State.memWrite_KEYS (s : State) (a : Nat) (b : Byte) : (s.memWrite a b).KEYS = s.KEYS := rfl
@[simp] theorem State.memWrite_display (s : State) (a : Nat) (b : Byte) : (s.memWrite a b).display = s.display := rfl
@[simp] theorem State.memWrite_schedule (s : State) (a : Nat) (b : Byte) : (s.memWrite a b).schedule = s.schedule := rfl
@[simp] theorem State.memWrite_eventIndex (s : State) (a : Nat) (b : Byte) : (s.memWrite a b).eventIndex = s.eventIndex := rfl
@[simp] theorem State.memWrite_out (s : State) (a : Nat) (b : Byte) : (s.memWrite a b).out = s.out := rfl
@[simp] theorem State.memWrite_freeIndex (s : State) (a : Nat) (b : Byte) : (s.memWrite a b).freeIndex = s.freeIndex := rfl

/-! ### setStack -/

@[simp] theorem State.setStack_V (s : State) (k : Vector Word 16) (n : Fin 17) : (s.setStack k n).V = s.V := rfl
@[simp] theorem State.setStack_I (s : State) (k : Vector Word 16) (n : Fin 17) : (s.setStack k n).I = s.I := rfl
@[simp] theorem State.setStack_pc (s : State) (k : Vector Word 16) (n : Fin 17) : (s.setStack k n).pc = s.pc := rfl
@[simp] theorem State.setStack_STK (s : State) (k : Vector Word 16) (n : Fin 17) : (s.setStack k n).STK = k := rfl
@[simp] theorem State.setStack_SP (s : State) (k : Vector Word 16) (n : Fin 17) : (s.setStack k n).SP = n := rfl
@[simp] theorem State.setStack_DT (s : State) (k : Vector Word 16) (n : Fin 17) : (s.setStack k n).DT = s.DT := rfl
@[simp] theorem State.setStack_ST (s : State) (k : Vector Word 16) (n : Fin 17) : (s.setStack k n).ST = s.ST := rfl
@[simp] theorem State.setStack_MEM (s : State) (k : Vector Word 16) (n : Fin 17) : (s.setStack k n).MEM = s.MEM := rfl
@[simp] theorem State.setStack_memEpoch (s : State) (k : Vector Word 16) (n : Fin 17) : (s.setStack k n).memEpoch = s.memEpoch := rfl
@[simp] theorem State.setStack_FAULT (s : State) (k : Vector Word 16) (n : Fin 17) : (s.setStack k n).FAULT = s.FAULT := rfl
@[simp] theorem State.setStack_FAULT_PC (s : State) (k : Vector Word 16) (n : Fin 17) : (s.setStack k n).FAULT_PC = s.FAULT_PC := rfl
@[simp] theorem State.setStack_FAULT_OP (s : State) (k : Vector Word 16) (n : Fin 17) : (s.setStack k n).FAULT_OP = s.FAULT_OP := rfl
@[simp] theorem State.setStack_straps (s : State) (k : Vector Word 16) (n : Fin 17) : (s.setStack k n).straps = s.straps := rfl
@[simp] theorem State.setStack_KEYS (s : State) (k : Vector Word 16) (n : Fin 17) : (s.setStack k n).KEYS = s.KEYS := rfl
@[simp] theorem State.setStack_display (s : State) (k : Vector Word 16) (n : Fin 17) : (s.setStack k n).display = s.display := rfl
@[simp] theorem State.setStack_schedule (s : State) (k : Vector Word 16) (n : Fin 17) : (s.setStack k n).schedule = s.schedule := rfl
@[simp] theorem State.setStack_eventIndex (s : State) (k : Vector Word 16) (n : Fin 17) : (s.setStack k n).eventIndex = s.eventIndex := rfl
@[simp] theorem State.setStack_out (s : State) (k : Vector Word 16) (n : Fin 17) : (s.setStack k n).out = s.out := rfl
@[simp] theorem State.setStack_freeIndex (s : State) (k : Vector Word 16) (n : Fin 17) : (s.setStack k n).freeIndex = s.freeIndex := rfl

/-! ### emit -/

@[simp] theorem State.emit_V (s : State) (o : Output) : (s.emit o).V = s.V := rfl
@[simp] theorem State.emit_I (s : State) (o : Output) : (s.emit o).I = s.I := rfl
@[simp] theorem State.emit_pc (s : State) (o : Output) : (s.emit o).pc = s.pc := rfl
@[simp] theorem State.emit_STK (s : State) (o : Output) : (s.emit o).STK = s.STK := rfl
@[simp] theorem State.emit_SP (s : State) (o : Output) : (s.emit o).SP = s.SP := rfl
@[simp] theorem State.emit_DT (s : State) (o : Output) : (s.emit o).DT = s.DT := rfl
@[simp] theorem State.emit_ST (s : State) (o : Output) : (s.emit o).ST = s.ST := rfl
@[simp] theorem State.emit_MEM (s : State) (o : Output) : (s.emit o).MEM = s.MEM := rfl
@[simp] theorem State.emit_memEpoch (s : State) (o : Output) : (s.emit o).memEpoch = s.memEpoch := rfl
@[simp] theorem State.emit_FAULT (s : State) (o : Output) : (s.emit o).FAULT = s.FAULT := rfl
@[simp] theorem State.emit_FAULT_PC (s : State) (o : Output) : (s.emit o).FAULT_PC = s.FAULT_PC := rfl
@[simp] theorem State.emit_FAULT_OP (s : State) (o : Output) : (s.emit o).FAULT_OP = s.FAULT_OP := rfl
@[simp] theorem State.emit_straps (s : State) (o : Output) : (s.emit o).straps = s.straps := rfl
@[simp] theorem State.emit_KEYS (s : State) (o : Output) : (s.emit o).KEYS = s.KEYS := rfl
@[simp] theorem State.emit_display (s : State) (o : Output) : (s.emit o).display = s.display := rfl
@[simp] theorem State.emit_schedule (s : State) (o : Output) : (s.emit o).schedule = s.schedule := rfl
@[simp] theorem State.emit_eventIndex (s : State) (o : Output) : (s.emit o).eventIndex = s.eventIndex := rfl
@[simp] theorem State.emit_out (s : State) (o : Output) : (s.emit o).out = s.out ++ [o] := rfl
@[simp] theorem State.emit_freeIndex (s : State) (o : Output) : (s.emit o).freeIndex = s.freeIndex := rfl

/-! ### setFreeIndex -/

@[simp] theorem State.setFreeIndex_V (s : State) (k : Nat) : (s.setFreeIndex k).V = s.V := rfl
@[simp] theorem State.setFreeIndex_I (s : State) (k : Nat) : (s.setFreeIndex k).I = s.I := rfl
@[simp] theorem State.setFreeIndex_pc (s : State) (k : Nat) : (s.setFreeIndex k).pc = s.pc := rfl
@[simp] theorem State.setFreeIndex_STK (s : State) (k : Nat) : (s.setFreeIndex k).STK = s.STK := rfl
@[simp] theorem State.setFreeIndex_SP (s : State) (k : Nat) : (s.setFreeIndex k).SP = s.SP := rfl
@[simp] theorem State.setFreeIndex_DT (s : State) (k : Nat) : (s.setFreeIndex k).DT = s.DT := rfl
@[simp] theorem State.setFreeIndex_ST (s : State) (k : Nat) : (s.setFreeIndex k).ST = s.ST := rfl
@[simp] theorem State.setFreeIndex_MEM (s : State) (k : Nat) : (s.setFreeIndex k).MEM = s.MEM := rfl
@[simp] theorem State.setFreeIndex_memEpoch (s : State) (k : Nat) : (s.setFreeIndex k).memEpoch = s.memEpoch := rfl
@[simp] theorem State.setFreeIndex_FAULT (s : State) (k : Nat) : (s.setFreeIndex k).FAULT = s.FAULT := rfl
@[simp] theorem State.setFreeIndex_FAULT_PC (s : State) (k : Nat) : (s.setFreeIndex k).FAULT_PC = s.FAULT_PC := rfl
@[simp] theorem State.setFreeIndex_FAULT_OP (s : State) (k : Nat) : (s.setFreeIndex k).FAULT_OP = s.FAULT_OP := rfl
@[simp] theorem State.setFreeIndex_straps (s : State) (k : Nat) : (s.setFreeIndex k).straps = s.straps := rfl
@[simp] theorem State.setFreeIndex_KEYS (s : State) (k : Nat) : (s.setFreeIndex k).KEYS = s.KEYS := rfl
@[simp] theorem State.setFreeIndex_display (s : State) (k : Nat) : (s.setFreeIndex k).display = s.display := rfl
@[simp] theorem State.setFreeIndex_schedule (s : State) (k : Nat) : (s.setFreeIndex k).schedule = s.schedule := rfl
@[simp] theorem State.setFreeIndex_eventIndex (s : State) (k : Nat) : (s.setFreeIndex k).eventIndex = s.eventIndex := rfl
@[simp] theorem State.setFreeIndex_out (s : State) (k : Nat) : (s.setFreeIndex k).out = s.out := rfl
@[simp] theorem State.setFreeIndex_freeIndex (s : State) (k : Nat) : (s.setFreeIndex k).freeIndex = k := rfl

/-! ### latchFault -/

@[simp] theorem State.latchFault_V (s : State) (c : Cause) (a w : Word) : (s.latchFault c a w).V = s.V := rfl
@[simp] theorem State.latchFault_I (s : State) (c : Cause) (a w : Word) : (s.latchFault c a w).I = s.I := rfl
@[simp] theorem State.latchFault_pc (s : State) (c : Cause) (a w : Word) : (s.latchFault c a w).pc = s.pc := rfl
@[simp] theorem State.latchFault_STK (s : State) (c : Cause) (a w : Word) : (s.latchFault c a w).STK = s.STK := rfl
@[simp] theorem State.latchFault_SP (s : State) (c : Cause) (a w : Word) : (s.latchFault c a w).SP = s.SP := rfl
@[simp] theorem State.latchFault_DT (s : State) (c : Cause) (a w : Word) : (s.latchFault c a w).DT = s.DT := rfl
@[simp] theorem State.latchFault_ST (s : State) (c : Cause) (a w : Word) : (s.latchFault c a w).ST = s.ST := rfl
@[simp] theorem State.latchFault_MEM (s : State) (c : Cause) (a w : Word) : (s.latchFault c a w).MEM = s.MEM := rfl
@[simp] theorem State.latchFault_memEpoch (s : State) (c : Cause) (a w : Word) : (s.latchFault c a w).memEpoch = s.memEpoch := rfl
@[simp] theorem State.latchFault_FAULT (s : State) (c : Cause) (a w : Word) : (s.latchFault c a w).FAULT = some c := rfl
@[simp] theorem State.latchFault_FAULT_PC (s : State) (c : Cause) (a w : Word) : (s.latchFault c a w).FAULT_PC = a := rfl
@[simp] theorem State.latchFault_FAULT_OP (s : State) (c : Cause) (a w : Word) : (s.latchFault c a w).FAULT_OP = w := rfl
@[simp] theorem State.latchFault_straps (s : State) (c : Cause) (a w : Word) : (s.latchFault c a w).straps = s.straps := rfl
@[simp] theorem State.latchFault_KEYS (s : State) (c : Cause) (a w : Word) : (s.latchFault c a w).KEYS = s.KEYS := rfl
@[simp] theorem State.latchFault_display (s : State) (c : Cause) (a w : Word) : (s.latchFault c a w).display = s.display := rfl
@[simp] theorem State.latchFault_schedule (s : State) (c : Cause) (a w : Word) : (s.latchFault c a w).schedule = s.schedule := rfl
@[simp] theorem State.latchFault_eventIndex (s : State) (c : Cause) (a w : Word) : (s.latchFault c a w).eventIndex = s.eventIndex := rfl
@[simp] theorem State.latchFault_out (s : State) (c : Cause) (a w : Word) : (s.latchFault c a w).out = s.out := rfl
@[simp] theorem State.latchFault_freeIndex (s : State) (c : Cause) (a w : Word) : (s.latchFault c a w).freeIndex = s.freeIndex := rfl

/-! ### setDisplay -/

@[simp] theorem State.setDisplay_V (s : State) (d : Display) : (s.setDisplay d).V = s.V := rfl
@[simp] theorem State.setDisplay_I (s : State) (d : Display) : (s.setDisplay d).I = s.I := rfl
@[simp] theorem State.setDisplay_pc (s : State) (d : Display) : (s.setDisplay d).pc = s.pc := rfl
@[simp] theorem State.setDisplay_STK (s : State) (d : Display) : (s.setDisplay d).STK = s.STK := rfl
@[simp] theorem State.setDisplay_SP (s : State) (d : Display) : (s.setDisplay d).SP = s.SP := rfl
@[simp] theorem State.setDisplay_DT (s : State) (d : Display) : (s.setDisplay d).DT = s.DT := rfl
@[simp] theorem State.setDisplay_ST (s : State) (d : Display) : (s.setDisplay d).ST = s.ST := rfl
@[simp] theorem State.setDisplay_MEM (s : State) (d : Display) : (s.setDisplay d).MEM = s.MEM := rfl
@[simp] theorem State.setDisplay_memEpoch (s : State) (d : Display) : (s.setDisplay d).memEpoch = s.memEpoch := rfl
@[simp] theorem State.setDisplay_FAULT (s : State) (d : Display) : (s.setDisplay d).FAULT = s.FAULT := rfl
@[simp] theorem State.setDisplay_FAULT_PC (s : State) (d : Display) : (s.setDisplay d).FAULT_PC = s.FAULT_PC := rfl
@[simp] theorem State.setDisplay_FAULT_OP (s : State) (d : Display) : (s.setDisplay d).FAULT_OP = s.FAULT_OP := rfl
@[simp] theorem State.setDisplay_straps (s : State) (d : Display) : (s.setDisplay d).straps = s.straps := rfl
@[simp] theorem State.setDisplay_KEYS (s : State) (d : Display) : (s.setDisplay d).KEYS = s.KEYS := rfl
@[simp] theorem State.setDisplay_display (s : State) (d : Display) : (s.setDisplay d).display = d := rfl
@[simp] theorem State.setDisplay_schedule (s : State) (d : Display) : (s.setDisplay d).schedule = s.schedule := rfl
@[simp] theorem State.setDisplay_eventIndex (s : State) (d : Display) : (s.setDisplay d).eventIndex = s.eventIndex := rfl
@[simp] theorem State.setDisplay_out (s : State) (d : Display) : (s.setDisplay d).out = s.out := rfl
@[simp] theorem State.setDisplay_freeIndex (s : State) (d : Display) : (s.setDisplay d).freeIndex = s.freeIndex := rfl

/-! ### setKeys -/

@[simp] theorem State.setKeys_V (s : State) (m : BitVec 16) : (s.setKeys m).V = s.V := rfl
@[simp] theorem State.setKeys_I (s : State) (m : BitVec 16) : (s.setKeys m).I = s.I := rfl
@[simp] theorem State.setKeys_pc (s : State) (m : BitVec 16) : (s.setKeys m).pc = s.pc := rfl
@[simp] theorem State.setKeys_STK (s : State) (m : BitVec 16) : (s.setKeys m).STK = s.STK := rfl
@[simp] theorem State.setKeys_SP (s : State) (m : BitVec 16) : (s.setKeys m).SP = s.SP := rfl
@[simp] theorem State.setKeys_DT (s : State) (m : BitVec 16) : (s.setKeys m).DT = s.DT := rfl
@[simp] theorem State.setKeys_ST (s : State) (m : BitVec 16) : (s.setKeys m).ST = s.ST := rfl
@[simp] theorem State.setKeys_MEM (s : State) (m : BitVec 16) : (s.setKeys m).MEM = s.MEM := rfl
@[simp] theorem State.setKeys_memEpoch (s : State) (m : BitVec 16) : (s.setKeys m).memEpoch = s.memEpoch := rfl
@[simp] theorem State.setKeys_FAULT (s : State) (m : BitVec 16) : (s.setKeys m).FAULT = s.FAULT := rfl
@[simp] theorem State.setKeys_FAULT_PC (s : State) (m : BitVec 16) : (s.setKeys m).FAULT_PC = s.FAULT_PC := rfl
@[simp] theorem State.setKeys_FAULT_OP (s : State) (m : BitVec 16) : (s.setKeys m).FAULT_OP = s.FAULT_OP := rfl
@[simp] theorem State.setKeys_straps (s : State) (m : BitVec 16) : (s.setKeys m).straps = s.straps := rfl
@[simp] theorem State.setKeys_KEYS (s : State) (m : BitVec 16) : (s.setKeys m).KEYS = m := rfl
@[simp] theorem State.setKeys_display (s : State) (m : BitVec 16) : (s.setKeys m).display = s.display := rfl
@[simp] theorem State.setKeys_schedule (s : State) (m : BitVec 16) : (s.setKeys m).schedule = s.schedule := rfl
@[simp] theorem State.setKeys_eventIndex (s : State) (m : BitVec 16) : (s.setKeys m).eventIndex = s.eventIndex := rfl
@[simp] theorem State.setKeys_out (s : State) (m : BitVec 16) : (s.setKeys m).out = s.out := rfl
@[simp] theorem State.setKeys_freeIndex (s : State) (m : BitVec 16) : (s.setKeys m).freeIndex = s.freeIndex := rfl

/-! ### beginEvent -/

@[simp] theorem State.beginEvent_V (s : State) : s.beginEvent.V = s.V := rfl
@[simp] theorem State.beginEvent_I (s : State) : s.beginEvent.I = s.I := rfl
@[simp] theorem State.beginEvent_pc (s : State) : s.beginEvent.pc = s.pc := rfl
@[simp] theorem State.beginEvent_STK (s : State) : s.beginEvent.STK = s.STK := rfl
@[simp] theorem State.beginEvent_SP (s : State) : s.beginEvent.SP = s.SP := rfl
@[simp] theorem State.beginEvent_DT (s : State) : s.beginEvent.DT = s.DT := rfl
@[simp] theorem State.beginEvent_ST (s : State) : s.beginEvent.ST = s.ST := rfl
@[simp] theorem State.beginEvent_MEM (s : State) : s.beginEvent.MEM = s.MEM := rfl
@[simp] theorem State.beginEvent_memEpoch (s : State) : s.beginEvent.memEpoch = s.memEpoch := rfl
@[simp] theorem State.beginEvent_FAULT (s : State) : s.beginEvent.FAULT = s.FAULT := rfl
@[simp] theorem State.beginEvent_FAULT_PC (s : State) : s.beginEvent.FAULT_PC = s.FAULT_PC := rfl
@[simp] theorem State.beginEvent_FAULT_OP (s : State) : s.beginEvent.FAULT_OP = s.FAULT_OP := rfl
@[simp] theorem State.beginEvent_straps (s : State) : s.beginEvent.straps = s.straps := rfl
@[simp] theorem State.beginEvent_KEYS (s : State) : s.beginEvent.KEYS = s.KEYS := rfl
@[simp] theorem State.beginEvent_display (s : State) : s.beginEvent.display = s.display := rfl
@[simp] theorem State.beginEvent_schedule (s : State) : s.beginEvent.schedule = s.schedule.tail := rfl
@[simp] theorem State.beginEvent_eventIndex (s : State) : s.beginEvent.eventIndex = s.eventIndex + 1 := rfl
@[simp] theorem State.beginEvent_out (s : State) : s.beginEvent.out = [] := rfl
@[simp] theorem State.beginEvent_freeIndex (s : State) : s.beginEvent.freeIndex = s.freeIndex := rfl

/-! ### The reads of a register and of a byte through each update -/

@[simp] theorem State.setV_memRead (s : State) (x : Reg) (b : Byte) (addr : Nat) : (s.setV x b).memRead addr = s.memRead addr := rfl
@[simp] theorem State.setI_getV (s : State) (v : Word) (r : Reg) : (s.setI v).getV r = s.getV r := rfl
@[simp] theorem State.setI_memRead (s : State) (v : Word) (addr : Nat) : (s.setI v).memRead addr = s.memRead addr := rfl
@[simp] theorem State.setPc_getV (s : State) (v : Word) (r : Reg) : (s.setPc v).getV r = s.getV r := rfl
@[simp] theorem State.setPc_memRead (s : State) (v : Word) (addr : Nat) : (s.setPc v).memRead addr = s.memRead addr := rfl
@[simp] theorem State.advance_getV (s : State) (r : Reg) : s.advance.getV r = s.getV r := rfl
@[simp] theorem State.advance_memRead (s : State) (addr : Nat) : s.advance.memRead addr = s.memRead addr := rfl
@[simp] theorem State.setDT_getV (s : State) (b : Byte) (r : Reg) : (s.setDT b).getV r = s.getV r := rfl
@[simp] theorem State.setDT_memRead (s : State) (b : Byte) (addr : Nat) : (s.setDT b).memRead addr = s.memRead addr := rfl
@[simp] theorem State.setST_getV (s : State) (b : Byte) (r : Reg) : (s.setST b).getV r = s.getV r := rfl
@[simp] theorem State.setST_memRead (s : State) (b : Byte) (addr : Nat) : (s.setST b).memRead addr = s.memRead addr := rfl
@[simp] theorem State.memWrite_getV (s : State) (a : Nat) (b : Byte) (r : Reg) : (s.memWrite a b).getV r = s.getV r := rfl
@[simp] theorem State.setStack_getV (s : State) (k : Vector Word 16) (n : Fin 17) (r : Reg) : (s.setStack k n).getV r = s.getV r := rfl
@[simp] theorem State.setStack_memRead (s : State) (k : Vector Word 16) (n : Fin 17) (addr : Nat) : (s.setStack k n).memRead addr = s.memRead addr := rfl
@[simp] theorem State.emit_getV (s : State) (o : Output) (r : Reg) : (s.emit o).getV r = s.getV r := rfl
@[simp] theorem State.emit_memRead (s : State) (o : Output) (addr : Nat) : (s.emit o).memRead addr = s.memRead addr := rfl
@[simp] theorem State.setFreeIndex_getV (s : State) (k : Nat) (r : Reg) : (s.setFreeIndex k).getV r = s.getV r := rfl
@[simp] theorem State.setFreeIndex_memRead (s : State) (k : Nat) (addr : Nat) : (s.setFreeIndex k).memRead addr = s.memRead addr := rfl
@[simp] theorem State.latchFault_getV (s : State) (c : Cause) (a w : Word) (r : Reg) : (s.latchFault c a w).getV r = s.getV r := rfl
@[simp] theorem State.latchFault_memRead (s : State) (c : Cause) (a w : Word) (addr : Nat) : (s.latchFault c a w).memRead addr = s.memRead addr := rfl
@[simp] theorem State.setDisplay_getV (s : State) (d : Display) (r : Reg) : (s.setDisplay d).getV r = s.getV r := rfl
@[simp] theorem State.setDisplay_memRead (s : State) (d : Display) (addr : Nat) : (s.setDisplay d).memRead addr = s.memRead addr := rfl
@[simp] theorem State.setKeys_getV (s : State) (m : BitVec 16) (r : Reg) : (s.setKeys m).getV r = s.getV r := rfl
@[simp] theorem State.setKeys_memRead (s : State) (m : BitVec 16) (addr : Nat) : (s.setKeys m).memRead addr = s.memRead addr := rfl
@[simp] theorem State.beginEvent_getV (s : State) (r : Reg) : s.beginEvent.getV r = s.getV r := rfl
@[simp] theorem State.beginEvent_memRead (s : State) (addr : Nat) : s.beginEvent.memRead addr = s.memRead addr := rfl

theorem State.getV_setV (s : State) (x y : Reg) (b : Byte) :
    (s.setV x b).getV y = if x = y then b else s.getV y := by
  simp only [State.getV, State.setV]
  rw [Vector.getElem_set]
  simp [BitVec.toNat_inj]

@[simp] theorem State.getV_setV_same (s : State) (x : Reg) (b : Byte) : (s.setV x b).getV x = b := by
  simp [State.getV_setV]

theorem State.getV_setV_other (s : State) (x y : Reg) (b : Byte) (h : x ≠ y) :
    (s.setV x b).getV y = s.getV y := by
  simp [State.getV_setV, h]

end Sys2Proof.Machine
end

