-- ==== Sys2Proof/Laws/Encoding.lean ====
section
/-! SUPPORT. The fields of the encoded words (spec/30_encoding.md R61, R64): what each field of a word of each format
is, and that a word is made of its fields. -/

namespace Sys2Proof

/-- Format NNN. -/
theorem fields_nnn (op : BitVec 4) (nnn : BitVec 12) :
    opField (op ++ nnn) = op ∧ nnnField (op ++ nnn) = nnn := by
  constructor <;> (apply BitVec.eq_of_getLsbD_eq; intro k hk; simp only [opField, nnnField]; grind)

/-- Formats XNN and X. -/
theorem fields_xnn (op x : BitVec 4) (nn : BitVec 8) :
    opField (op ++ x ++ nn) = op ∧ xField (op ++ x ++ nn) = x ∧ nnField (op ++ x ++ nn) = nn := by
  refine ⟨?_, ?_, ?_⟩ <;>
    (apply BitVec.eq_of_getLsbD_eq; intro k hk; simp only [opField, xField, nnField]; grind)

/-- Formats XY and XYN. -/
theorem fields_xyn (op x y n : BitVec 4) :
    opField (op ++ x ++ y ++ n) = op ∧ xField (op ++ x ++ y ++ n) = x ∧ yField (op ++ x ++ y ++ n) = y ∧
      nField (op ++ x ++ y ++ n) = n := by
  refine ⟨?_, ?_, ?_, ?_⟩ <;>
    (apply BitVec.eq_of_getLsbD_eq; intro k hk; simp only [opField, xField, yField, nField]; grind)

/-- A word is its op and nnn fields. -/
theorem word_eq_nnn (w : Word) : w = opField w ++ nnnField w := by
  apply BitVec.eq_of_getLsbD_eq; intro k hk; simp only [opField, nnnField]; grind

/-- A word is its op, x and nn fields. -/
theorem word_eq_xnn (w : Word) : w = opField w ++ xField w ++ nnField w := by
  apply BitVec.eq_of_getLsbD_eq; intro k hk; simp only [opField, xField, nnField]; grind

/-- A word is its op, x, y and n fields. -/
theorem word_eq_xyn (w : Word) : w = opField w ++ xField w ++ yField w ++ nField w := by
  apply BitVec.eq_of_getLsbD_eq; intro k hk; simp only [opField, xField, yField, nField]; grind

/-- The two bytes of a word, put together again, are the word (20_memory.md R43). -/
theorem wordBytes_append (w : Word) :
    (w.extractLsb' 8 8 : BitVec 8) ++ (w.extractLsb' 0 8 : BitVec 8) = w := by
  apply BitVec.eq_of_getLsbD_eq; intro k hk; grind

/-- Decoding the bytes of a word is decoding the word. -/
theorem decode_wordBytes (w : Word) (rest : List Byte) :
    decode (wordBytes w ++ rest) =
      match decodeWord w with
      | .ok i => .ok (i, rest)
      | .error r => .error r := by
  cases h : decodeWord w <;>
    simp only [wordBytes, List.cons_append, List.nil_append, decode, wordBytes_append, h]

/-- `decodeWord` answers an instruction exactly when the lookup finds one. -/
theorem decodeWord_eq_ok_iff (w : Word) (i : Instr) : decodeWord w = .ok i ↔ lookupWord w = some i := by
  unfold decodeWord
  cases lookupWord w <;> simp

end Sys2Proof
end

