-- ==== Sys2Proof/Laws/Memory.lean ====
section
/-! SUPPORT. The laws of memory: what a read gives after a write, that writes keep the canonical form, and what the
block operations do. -/

namespace Sys2Proof.Machine

/-- Read after write, on the list. -/
theorem Memory.lookup_write (m : List Host.Cell) (a k : Nat) (b : Byte) :
    Memory.lookup (Memory.write m a b) k = if k = a then some b else Memory.lookup m k := by
  induction m with
  | nil => simp [Memory.write, Memory.lookup, eq_comm]
  | cons c m ih =>
    obtain ⟨j, c⟩ := c
    simp only [Memory.write]
    split
    · simp only [Memory.lookup]; grind
    · split
      · simp only [Memory.lookup]; grind
      · simp only [Memory.lookup, ih]; grind

/-- The entries of a written memory are the new one and old ones. -/
theorem Memory.mem_write {m : List Host.Cell} {a : Nat} {b : Byte} {c : Host.Cell}
    (h : c ∈ Memory.write m a b) : c = (a, b) ∨ c ∈ m := by
  induction m with
  | nil => simpa [Memory.write] using h
  | cons d m ih =>
    obtain ⟨k, d⟩ := d
    simp only [Memory.write] at h
    grind

/-- A write within the address space keeps the canonical form. -/
theorem Memory.write_wf {m : List Host.Cell} {a : Nat} (b : Byte) (hm : Memory.wf m) (ha : a < Config.memSize) :
    Memory.wf (Memory.write m a b) := by
  refine ⟨?_, fun c hc => ?_⟩
  · obtain ⟨hp, -⟩ := hm
    induction m with
    | nil => simp [Memory.write]
    | cons d m ih =>
      obtain ⟨k, d⟩ := d
      rw [List.pairwise_cons] at hp
      simp only [Memory.write]
      split
      · rename_i hlt
        refine List.pairwise_cons.2 ⟨fun c hc => ?_, List.pairwise_cons.2 hp⟩
        rcases List.mem_cons.1 hc with rfl | hc
        · exact hlt
        · exact Nat.lt_trans hlt (hp.1 c hc)
      · split
        · rename_i _ heq
          subst heq
          exact List.pairwise_cons.2 hp
        · refine List.pairwise_cons.2 ⟨fun c hc => ?_, ih hp.2⟩
          rcases Memory.mem_write hc with rfl | hc
          · show k < a
            omega
          · exact hp.1 c hc
  · rcases Memory.mem_write hc with rfl | hc
    · exact ha
    · exact hm.2 c hc

/-- Read after write of one byte (20_memory.md R47). -/
theorem State.memRead_memWrite (s : State) (a k : Nat) (b : Byte) :
    (s.memWrite a b).memRead k = if k = a then b else s.memRead k := by
  simp only [State.memRead, State.memWrite_MEM, State.memWrite_memEpoch, Memory.lookup_write]
  split <;> rfl

/-- A block write changes memory alone. -/
theorem State.writeBytes_eq (s : State) (a : Nat) (bs : List Byte) :
    s.writeBytes a bs = { s with MEM := (s.writeBytes a bs).MEM } := by
  induction bs generalizing s a with
  | nil => rfl
  | cons b bs ih => rw [State.writeBytes, ih]; rfl

/-- Read after a block write: the byte written there, or the byte before. -/
theorem State.memRead_writeBytes (s : State) (a k : Nat) (bs : List Byte) :
    (s.writeBytes a bs).memRead k = if a ≤ k then (bs[k - a]?).getD (s.memRead k) else s.memRead k := by
  induction bs generalizing s a with
  | nil => simp [State.writeBytes]
  | cons b bs ih =>
    rw [State.writeBytes, ih, State.memRead_memWrite]
    by_cases h1 : k = a
    · subst h1; simp
    · by_cases h2 : a + 1 ≤ k
      · have : k - a = (k - (a + 1)) + 1 := by omega
        simp [h1, h2, show a ≤ k by omega, this]
      · simp [h1, h2, show ¬ a ≤ k by omega]

/-- A block write within the address space keeps the canonical form. -/
theorem State.writeBytes_wf {s : State} {a : Nat} {bs : List Byte} (hs : Memory.wf s.MEM)
    (h : a + bs.length ≤ Config.memSize) : Memory.wf (s.writeBytes a bs).MEM := by
  induction bs generalizing s a with
  | nil => exact hs
  | cons b bs ih =>
    rw [List.length_cons] at h
    exact ih (Memory.write_wf b hs (by omega)) (by omega)

@[simp] theorem State.length_readBytes (s : State) (a k : Nat) : (s.readBytes a k).length = k := by
  simp [State.readBytes]

theorem State.getElem_readBytes (s : State) (a k r : Nat) (h : r < (s.readBytes a k).length) :
    (s.readBytes a k)[r] = s.memRead (a + r) := by
  simp [State.readBytes]

@[simp] theorem State.length_regsUpTo (s : State) (x : Reg) : (s.regsUpTo x).length = x.toNat + 1 := by
  simp [State.regsUpTo]

theorem State.getElem_regsUpTo (s : State) (x : Reg) (k : Nat) (h : k < (s.regsUpTo x).length) :
    (s.regsUpTo x)[k] = s.getV (BitVec.ofNat 4 k) := by
  simp [State.regsUpTo]

/-- Loading registers changes registers alone. -/
theorem State.setRegsFrom_eq (s : State) (k : Nat) (bs : List Byte) :
    s.setRegsFrom k bs = { s with V := (s.setRegsFrom k bs).V } := by
  induction bs generalizing s k with
  | nil => rfl
  | cons b bs ih => rw [State.setRegsFrom, ih]; rfl

/-- A register after a block load: the byte loaded into it, or its old value. -/
theorem State.getV_setRegsFrom (s : State) (k : Nat) (bs : List Byte) (r : Reg) (h : k + bs.length ≤ 16) :
    (s.setRegsFrom k bs).getV r = if k ≤ r.toNat then (bs[r.toNat - k]?).getD (s.getV r) else s.getV r := by
  induction bs generalizing s k with
  | nil => simp [State.setRegsFrom]
  | cons b bs ih =>
    rw [List.length_cons] at h
    rw [State.setRegsFrom, ih _ _ (by omega), State.getV_setV]
    have hk : (BitVec.ofNat 4 k).toNat = k := by simp; omega
    by_cases h1 : BitVec.ofNat 4 k = r
    · subst h1; simp [hk]
    · have h1' : r.toNat ≠ k := by
        intro e
        exact h1 (BitVec.eq_of_toNat_eq (by rw [hk, e]))
      by_cases h2 : k + 1 ≤ r.toNat
      · have : r.toNat - k = (r.toNat - (k + 1)) + 1 := by omega
        simp [h1, h2, show k ≤ r.toNat by omega, this]
      · simp [h1, h2, show ¬ k ≤ r.toNat by omega]

/-- Shifting `I` changes `I` alone. -/
theorem State.shiftI_eq (s : State) (k : Nat) : s.shiftI k = { s with I := (s.shiftI k).I } := by
  unfold State.shiftI
  split <;> rfl

/-- The bounds check on numbers (20_memory.md R48). -/
theorem State.beyondMemory_iff (s : State) (k : Nat) :
    s.beyondMemory k = true ↔ 1 ≤ k ∧ s.I.toNat + k - 1 > 4095 := by
  simp [State.beyondMemory]

end Sys2Proof.Machine
end

