-- ==== Sys2Proof/Laws/Surface.lean ====
section
/-! SUPPORT. The laws of the display surface: toggling a pixel, the canonical form, and the XOR of a list of
pixels (spec/60_exceptions.md R146 to R149). -/

namespace Sys2Proof.Machine

theorem mem_togglePixel_imp {p q : Nat × Nat} {l : List (Nat × Nat)} (h : q ∈ togglePixel p l) : q = p ∨ q ∈ l := by
  induction l with
  | nil => simpa [togglePixel] using h
  | cons d l ih => simp only [togglePixel] at h; grind

/-- Toggling keeps the list rising. -/
theorem togglePixel_pairwise {p : Nat × Nat} {l : List (Nat × Nat)} (h : l.Pairwise pixelBefore) :
    (togglePixel p l).Pairwise pixelBefore := by
  induction l with
  | nil => simp [togglePixel]
  | cons d l ih =>
    rw [List.pairwise_cons] at h
    simp only [togglePixel]
    split
    · rename_i hpd
      refine List.pairwise_cons.2 ⟨fun c hc => ?_, List.pairwise_cons.2 h⟩
      rcases List.mem_cons.1 hc with rfl | hc
      · exact hpd
      · have := h.1 c hc
        simp only [pixelBefore] at *
        omega
    · split
      · exact h.2
      · rename_i h1 h2
        refine List.pairwise_cons.2 ⟨fun c hc => ?_, ih h.2⟩
        rcases mem_togglePixel_imp hc with rfl | hc
        · simp only [pixelBefore, Prod.ext_iff] at *
          omega
        · exact h.1 c hc

/-- Toggling changes one pixel and no other. -/
theorem mem_togglePixel {p : Nat × Nat} {l : List (Nat × Nat)} (h : l.Pairwise pixelBefore) (q : Nat × Nat) :
    q ∈ togglePixel p l ↔ if q = p then p ∉ l else q ∈ l := by
  induction l with
  | nil => simp [togglePixel]
  | cons d l ih =>
    rw [List.pairwise_cons] at h
    have irr : ∀ c : Nat × Nat, ¬ pixelBefore c c := by intro c hc; simp only [pixelBefore] at hc; omega
    simp only [togglePixel]
    split
    · rename_i hpd
      have hp : p ∉ d :: l := by
        intro hm
        rcases List.mem_cons.1 hm with rfl | hm
        · exact irr _ hpd
        · have := h.1 p hm
          simp only [pixelBefore] at *
          omega
      by_cases hq : q = p
      · simp [hq, List.not_mem_of_not_mem_cons hp, show p ≠ d from fun e => hp (e ▸ List.mem_cons_self)]
      · simp [hq]
    · split
      · rename_i _ heq
        subst heq
        have hp : p ∉ l := fun hm => irr p (h.1 p hm)
        by_cases hq : q = p
        · simp [hq, hp]
        · simp [hq]
      · rename_i _ hne
        rw [List.mem_cons, ih h.2]
        by_cases hq : q = p
        · subst hq; simp [hne]
        · simp [hq]

@[simp] theorem Display.pix_eq_true_iff (d : Display) (r c : Nat) : d.pix r c = true ↔ (r, c) ∈ d.lit := by
  simp [Display.pix]

/-- XOR of pixels never changes the size of the surface. -/
theorem Display.xorPixels_size (d : Display) (ps : List (Nat × Nat)) :
    (d.xorPixels ps).2.width = d.width ∧ (d.xorPixels ps).2.height = d.height := by
  induction ps generalizing d with
  | nil => exact ⟨rfl, rfl⟩
  | cons p ps ih => exact ih _

/-- XOR of pixels on the surface keeps its canonical form. -/
theorem Display.xorPixels_wf {d : Display} {ps : List (Nat × Nat)} (hd : d.wf)
    (hp : ∀ p ∈ ps, p.1 < d.height ∧ p.2 < d.width) : (d.xorPixels ps).2.wf := by
  induction ps generalizing d with
  | nil => exact hd
  | cons p ps ih =>
    refine ih (d := { d with lit := togglePixel p d.lit }) ⟨togglePixel_pairwise hd.1, fun q hq => ?_⟩
      (fun q hq => hp q (List.mem_cons_of_mem _ hq))
    rcases mem_togglePixel_imp hq with rfl | hq
    · exact hp _ List.mem_cons_self
    · exact hd.2 q hq

/-- XOR of distinct pixels: each of them flips, every other stays, and the answer is whether one of them was on. -/
theorem Display.xorPixels_spec {d : Display} {ps : List (Nat × Nat)} (hd : d.lit.Pairwise pixelBefore)
    (hp : ps.Nodup) :
    (∀ q, q ∈ (d.xorPixels ps).2.lit ↔ (if q ∈ ps then q ∉ d.lit else q ∈ d.lit)) ∧
    ((d.xorPixels ps).1 = true ↔ ∃ q ∈ ps, q ∈ d.lit) := by
  induction ps generalizing d with
  | nil => simp [Display.xorPixels]
  | cons p ps ih =>
    rw [List.nodup_cons] at hp
    obtain ⟨h1, h2⟩ := ih (d := { d with lit := togglePixel p d.lit }) (togglePixel_pairwise hd) hp.2
    refine ⟨fun q => ?_, ?_⟩
    · show q ∈ (Display.xorPixels { d with lit := togglePixel p d.lit } ps).2.lit ↔ _
      rw [h1 q]
      simp only [mem_togglePixel hd]
      by_cases hq : q = p
      · subst hq; simp [hp.1]
      · simp [hq]
    · show (d.pix p.1 p.2 || (Display.xorPixels { d with lit := togglePixel p d.lit } ps).1) = true ↔ _
      rw [Bool.or_eq_true, h2, Display.pix_eq_true_iff]
      simp only [mem_togglePixel hd, List.mem_cons]
      constructor
      · rintro (h | ⟨q, hq, h⟩)
        · exact ⟨p, .inl rfl, h⟩
        · have : q ≠ p := fun e => hp.1 (e ▸ hq)
          exact ⟨q, .inr hq, by simpa [this] using h⟩
      · rintro ⟨q, rfl | hq, h⟩
        · exact .inl h
        · have : q ≠ p := fun e => hp.1 (e ▸ hq)
          exact .inr ⟨q, hq, by simpa [this] using h⟩

/-- The pixels of a row a sprite's bits reach: on the surface, their sprite bit set. -/
theorem Display.mem_rowTargets (d : Display) (x0 r : Nat) (row : Byte) (q : Nat × Nat) :
    q ∈ d.rowTargets x0 r row ↔
      r < d.height ∧ q.1 = r ∧ q.2 < d.width ∧ x0 ≤ q.2 ∧ q.2 < x0 + 8 ∧ spriteBit row (q.2 - x0) = true := by
  unfold Display.rowTargets
  split
  · simp; omega
  · rename_i h
    simp only [List.mem_map, List.mem_filter, List.mem_range, Bool.and_eq_true, decide_eq_true_eq]
    constructor
    · rintro ⟨c, ⟨hc, hw, hb⟩, rfl⟩
      refine ⟨by omega, rfl, hw, by simp, by simp; omega, ?_⟩
      simpa using hb
    · rintro ⟨_, h1, h2, h3, h4, h5⟩
      exact ⟨q.2 - x0, ⟨by omega, by omega, h5⟩, Prod.ext h1.symm (by simp; omega)⟩

/-- The pixels a sprite's bits reach. -/
theorem Display.mem_targets (d : Display) (x0 y : Nat) (rows : List Byte) (q : Nat × Nat) :
    q ∈ d.targets x0 y rows ↔
      ∃ h : q.1 - y < rows.length, y ≤ q.1 ∧ q.1 < d.height ∧ q.2 < d.width ∧ x0 ≤ q.2 ∧ q.2 < x0 + 8 ∧
        spriteBit rows[q.1 - y] (q.2 - x0) = true := by
  induction rows generalizing y with
  | nil => simp [Display.targets]
  | cons row rows ih =>
    rw [Display.targets, List.mem_append, ih, Display.mem_rowTargets]
    constructor
    · rintro (⟨h1, h2, h3⟩ | ⟨h, h1, h2⟩)
      · subst h2
        exact ⟨by simp, Nat.le_refl _, h1, by simpa using h3⟩
      · refine ⟨by simp; omega, by omega, ?_⟩
        have : q.1 - y = (q.1 - (y + 1)) + 1 := by omega
        simpa [this] using h2
    · rintro ⟨h, h1, h2, h3⟩
      by_cases he : q.1 = y
      · left
        refine ⟨by omega, he, ?_⟩
        subst he
        simpa using h3
      · right
        have : q.1 - y = (q.1 - (y + 1)) + 1 := by omega
        simp only [this, List.length_cons, List.getElem_cons_succ] at h h3
        exact ⟨by omega, by omega, h2, h3⟩

theorem Display.rowTargets_nodup (d : Display) (x0 r : Nat) (row : Byte) : (d.rowTargets x0 r row).Nodup := by
  unfold Display.rowTargets
  split
  · exact List.nodup_nil
  · refine List.Nodup.map ?_ (List.nodup_range.filter _)
    intro a b h
    simpa using h

/-- A sprite reaches each pixel once at most. -/
theorem Display.targets_nodup (d : Display) (x0 y : Nat) (rows : List Byte) : (d.targets x0 y rows).Nodup := by
  induction rows generalizing y with
  | nil => exact List.nodup_nil
  | cons row rows ih =>
    refine List.nodup_append.2 ⟨d.rowTargets_nodup x0 y row, ih (y + 1), ?_⟩
    rintro a ha b hb rfl
    have h1 := ((d.mem_rowTargets x0 y row a).1 ha).2.1
    obtain ⟨_, h2, _⟩ := (d.mem_targets x0 (y + 1) rows a).1 hb
    omega

/-- Drawing never changes the size of the surface. -/
theorem Display.draw_size (d : Display) (x y : Byte) (rows : List Byte) (h : Nat) :
    (d.draw x y rows h).2.width = d.width ∧ (d.draw x y rows h).2.height = d.height :=
  d.xorPixels_size _

/-- Drawing keeps the canonical form. -/
theorem Display.draw_wf {d : Display} (hd : d.wf) (x y : Byte) (rows : List Byte) (h : Nat) :
    (d.draw x y rows h).2.wf := by
  refine Display.xorPixels_wf hd fun p hp => ?_
  obtain ⟨_, _, h1, h2, _⟩ := (d.mem_targets _ _ _ p).1 hp
  exact ⟨h1, h2⟩

/-- The surface after a reset event is canonical, whatever the free values are. -/
theorem Display.afterReset_wf (d : Display) (k : Nat) : (d.afterReset k).wf := by
  have hg : d.grid.Pairwise pixelBefore := by
    unfold Display.grid
    rw [List.pairwise_flatMap]
    constructor
    · intro r _
      rw [List.pairwise_map]
      exact List.pairwise_lt_range.imp fun h => .inr ⟨rfl, h⟩
    · refine List.pairwise_lt_range.imp fun {a b} h => ?_
      intro p hp q hq
      obtain ⟨c, _, rfl⟩ := List.mem_map.1 hp
      obtain ⟨c', _, rfl⟩ := List.mem_map.1 hq
      exact .inl h
  refine ⟨hg.filter _, fun p hp => ?_⟩
  have hp' := (List.mem_filter.1 hp).1
  simp only [Display.grid, List.mem_flatMap, List.mem_map, List.mem_range] at hp'
  obtain ⟨r, hr, c, hc, rfl⟩ := hp'
  exact ⟨hr, hc⟩

end Sys2Proof.Machine
end

