-- ==== Sys2Proof/Laws/Frames.lean ====
section
/-! SUPPORT. The frame of each shared operation, and the values of the operand forms as numbers. -/

namespace Sys2Proof.Machine

/-- Writing `pc` alone. -/
theorem frame_setPc (s : State) (v : Word) : Frame {} s (s.advance.setPc v) := by
  constructor <;> intros <;> simp_all

/-- A skip, taken or not. -/
theorem frame_skipIf (s : State) (c : Bool) : Frame {} s (s.advance.skipIf c) := by
  unfold State.skipIf
  split
  · exact frame_setPc s _
  · exact frame_setPc s _

/-- Where a skip leaves `pc` (42_skip.md R96). -/
theorem pc_skipIf (s : State) (c : Bool) :
    (s.advance.skipIf c).pc = if c then s.pc + 4 else s.pc + 2 := by
  unfold State.skipIf
  split <;> simp [BitVec.add_assoc]

/-- Writing one register. -/
theorem frame_setV (s : State) (x : Reg) (b : Byte) : Frame { regs := [x] } s (s.advance.setV x b) := by
  refine ⟨fun r hr => ?_, ?_, ?_, ?_, ?_, ?_, ?_, ?_, ?_, ?_⟩
  · exact State.getV_setV_other _ _ _ _ (by rintro rfl; simp at hr)
  all_goals (intros; simp_all)

/-- Writing a result and then its flag. -/
theorem frame_setResultThenFlag (s : State) (x : Reg) (b : Byte) (f : Bool) :
    Frame { regs := [x, 15] } s (s.advance.setResultThenFlag x b f) := by
  refine ⟨fun r hr => ?_, ?_, ?_, ?_, ?_, ?_, ?_, ?_, ?_, ?_⟩
  · simp only [List.mem_cons, List.not_mem_nil, or_false, not_or] at hr
    exact (State.getV_setV_other _ _ _ _ (Ne.symm hr.2)).trans (State.getV_setV_other _ _ _ _ (Ne.symm hr.1))
  all_goals (intros; simp_all [State.setResultThenFlag])

/-- The flag register after a result and its flag: the flag (43_alu.md R110). -/
theorem getV_VF_setResultThenFlag (s : State) (x : Reg) (b : Byte) (f : Bool) :
    (s.setResultThenFlag x b f).getV 15 = flagByte f := State.getV_setV_same _ _ _

/-- The destination after a result and its flag, VF apart: the result. -/
theorem getV_setResultThenFlag (s : State) (x : Reg) (b : Byte) (f : Bool) (hx : x ≠ 15) :
    (s.setResultThenFlag x b f).getV x = b :=
  (State.getV_setV_other _ _ _ _ (Ne.symm hx)).trans (State.getV_setV_same _ _ _)

/-- Writing `I` alone. -/
theorem frame_setI (s : State) (v : Word) : Frame { index := true } s (s.advance.setI v) := by
  constructor <;> intros <;> simp_all

/-- Writing a block of memory. -/
theorem frame_writeBytes (s : State) (a n : Nat) (bs : List Byte) (hn : bs.length = n) :
    Frame { memFrom := a, memCount := n } s (s.advance.writeBytes a bs) := by
  have hm : ∀ k, ¬(a ≤ k ∧ k < a + n) → (s.advance.writeBytes a bs).memRead k = s.memRead k := by
    intro k hk
    rw [State.memRead_writeBytes]
    split
    · rw [List.getElem?_eq_none (by omega)]; rfl
    · rfl
  have e := State.writeBytes_eq s.advance a bs
  generalize s.advance.writeBytes a bs = t at *
  generalize t.MEM = m at e
  subst e
  exact ⟨fun _ _ => rfl, fun _ => rfl, fun _ => ⟨rfl, rfl⟩, fun _ => rfl, fun _ => rfl, hm, ⟨rfl, rfl, rfl⟩,
    ⟨rfl, rfl, rfl, rfl, rfl⟩, fun _ => ⟨rfl, rfl⟩, fun _ => rfl⟩

/-- `I` after the strap's post-increment, on numbers (44_index_memory.md R118). -/
theorem toNat_I_shiftI (s : State) (k : Nat) (h : s.I.toNat + k ≤ 65535) :
    (s.shiftI k).I.toNat = if s.straps.storeShiftsI then s.I.toNat + k else s.I.toNat := by
  unfold State.shiftI
  split
  · simp; omega
  · rfl

/-- The post-increment of `I` within a frame that allows `I` to change when the strap is set. -/
theorem frame_shiftI {m : MayChange} {s t : State} (k : Nat) (h : Frame m s t) :
    Frame { m with index := m.index || s.straps.storeShiftsI } s (t.shiftI k) := by
  obtain ⟨h1, h2, h3, h4, h5, h6, h7, h8, h9, h10⟩ := h
  have hI : (m.index || s.straps.storeShiftsI) = false → (t.shiftI k).I = s.I := by
    intro hf
    rw [Bool.or_eq_false_iff] at hf
    unfold State.shiftI
    rw [h8.1, hf.2]
    exact h2 hf.1
  rw [State.shiftI_eq] at *
  exact ⟨h1, hI, h3, h4, h5, h6, h7, h8, h9, h10⟩

/-- A key number or digit is the register modulo 16. -/
theorem lowNibble_eq (b : Byte) : lowNibble b = b.toNat % 16 := by
  unfold lowNibble
  rw [BitVec.toNat_and]
  exact Nat.and_two_pow_sub_one_eq_mod b.toNat 4

/-- The top nibble of an address is its quotient by 256. -/
theorem topNibble_eq (nnn : BitVec 12) : topNibble nnn = BitVec.ofNat 4 (nnn.toNat / 256) := by
  apply BitVec.eq_of_toNat_eq
  simp [topNibble, BitVec.extractLsb'_toNat, Nat.shiftRight_eq_div_pow]

/-- The least pressed key: none exactly when no key is down. -/
theorem lowestKey_eq_none_iff (m : BitVec 16) : lowestKey m = none ↔ m = 0 := by
  constructor
  · intro h
    simp only [lowestKey, List.find?_range_eq_none] at h
    apply BitVec.eq_of_getLsbD_eq
    intro k hk
    simpa using h k hk
  · rintro rfl
    decide

/-- The least pressed key is down, and no lower one is. -/
theorem lowestKey_eq_some_iff (m : BitVec 16) (k : Nat) :
    lowestKey m = some k ↔ m.getLsbD k = true ∧ k < 16 ∧ ∀ j, j < k → m.getLsbD j = false := by
  rw [lowestKey, List.find?_range_eq_some]
  simp

/-- A timer tick takes one off, not below 0 (60_exceptions.md R141). -/
theorem toNat_timerDown (b : Byte) : (timerDown b).toNat = b.toNat - 1 := by
  unfold timerDown
  have := b.isLt
  split
  · rw [BitVec.toNat_sub]; simp; omega
  · omega

end Sys2Proof.Machine
end

