-- ==== Sys2Proof/Laws/PerInstr.lean ====
section
/-! SUPPORT. Statements about every instruction as syntax, one lemma a constructor. RowMatch: the word an instruction
is encoded to lies in the instruction's row of the opcode map (spec/30_encoding.md R66). -/

namespace Sys2Proof.Laws.RowMatch

/-- The encoded word has the fixed bits of its row. -/
def Statement (i : Instr) : Prop := encode i &&& rowMask i = rowMatch i

theorem mask_nnn (op : BitVec 4) (nnn : BitVec 12) : (op ++ nnn) &&& 0xF000#16 = op ++ 0#12 := by
  apply BitVec.eq_of_getLsbD_eq; intro k hk; interval_cases k <;> simp <;> grind

theorem mask_xnn (op x : BitVec 4) (nn : BitVec 8) : (op ++ x ++ nn) &&& 0xF000#16 = op ++ 0#12 := by
  apply BitVec.eq_of_getLsbD_eq; intro k hk; interval_cases k <;> simp <;> grind

theorem mask_xyn (op x y n : BitVec 4) : (op ++ x ++ y ++ n) &&& 0xF000#16 = op ++ 0#12 := by
  apply BitVec.eq_of_getLsbD_eq; intro k hk; interval_cases k <;> simp <;> grind

theorem mask_xy (op x y n : BitVec 4) : (op ++ x ++ y ++ n) &&& 0xF00F#16 = op ++ 0#8 ++ n := by
  apply BitVec.eq_of_getLsbD_eq; intro k hk; interval_cases k <;> simp <;> grind

theorem mask_x (op x : BitVec 4) (nn : BitVec 8) : (op ++ x ++ nn) &&& 0xF0FF#16 = op ++ 0#4 ++ nn := by
  apply BitVec.eq_of_getLsbD_eq; intro k hk; interval_cases k <;> simp <;> grind

theorem cls : Statement .cls := by unfold Statement; decide

theorem ret : Statement .ret := by unfold Statement; decide

theorem jp (nnn : BitVec 12) : Statement (.jp nnn) := mask_nnn _ _

theorem call (nnn : BitVec 12) : Statement (.call nnn) := mask_nnn _ _

theorem seImm (x : Reg) (nn : Byte) : Statement (.seImm x nn) := mask_xnn _ _ _

theorem sneImm (x : Reg) (nn : Byte) : Statement (.sneImm x nn) := mask_xnn _ _ _

theorem seReg (x y : Reg) : Statement (.seReg x y) := mask_xy _ _ _ _

theorem ldImm (x : Reg) (nn : Byte) : Statement (.ldImm x nn) := mask_xnn _ _ _

theorem addImm (x : Reg) (nn : Byte) : Statement (.addImm x nn) := mask_xnn _ _ _

theorem ldReg (x y : Reg) : Statement (.ldReg x y) := mask_xy _ _ _ _

theorem orReg (x y : Reg) : Statement (.orReg x y) := mask_xy _ _ _ _

theorem andReg (x y : Reg) : Statement (.andReg x y) := mask_xy _ _ _ _

theorem xorReg (x y : Reg) : Statement (.xorReg x y) := mask_xy _ _ _ _

theorem addReg (x y : Reg) : Statement (.addReg x y) := mask_xy _ _ _ _

theorem subReg (x y : Reg) : Statement (.subReg x y) := mask_xy _ _ _ _

theorem shr (x y : Reg) : Statement (.shr x y) := mask_xy _ _ _ _

theorem subnReg (x y : Reg) : Statement (.subnReg x y) := mask_xy _ _ _ _

theorem shl (x y : Reg) : Statement (.shl x y) := mask_xy _ _ _ _

theorem sneReg (x y : Reg) : Statement (.sneReg x y) := mask_xy _ _ _ _

theorem ldI (nnn : BitVec 12) : Statement (.ldI nnn) := mask_nnn _ _

theorem jpo (nnn : BitVec 12) : Statement (.jpo nnn) := mask_nnn _ _

theorem rnd (x : Reg) (nn : Byte) : Statement (.rnd x nn) := mask_xnn _ _ _

theorem drw (x y : Reg) (n : Nat) : Statement (.drw x y n) := mask_xyn _ _ _ _

theorem skp (x : Reg) : Statement (.skp x) := mask_x _ _ _

theorem sknp (x : Reg) : Statement (.sknp x) := mask_x _ _ _

theorem ldVxDT (x : Reg) : Statement (.ldVxDT x) := mask_x _ _ _

theorem ldVxK (x : Reg) : Statement (.ldVxK x) := mask_x _ _ _

theorem ldDTVx (x : Reg) : Statement (.ldDTVx x) := mask_x _ _ _

theorem ldSTVx (x : Reg) : Statement (.ldSTVx x) := mask_x _ _ _

theorem addI (x : Reg) : Statement (.addI x) := mask_x _ _ _

theorem ldF (x : Reg) : Statement (.ldF x) := mask_x _ _ _

theorem ldB (x : Reg) : Statement (.ldB x) := mask_x _ _ _

theorem storeRegs (x : Reg) : Statement (.storeRegs x) := mask_x _ _ _

theorem loadRegs (x : Reg) : Statement (.loadRegs x) := mask_x _ _ _

end Sys2Proof.Laws.RowMatch
end

