-- ==== Sys2Proof/Laws/Stack.lean ====
section
/-! SUPPORT. What `push` and `pop` can do (spec/10_state.md R22). -/

namespace Sys2Proof.Machine

/-- `push` succeeds exactly when fewer than 16 entries are in use, and then writes the entry at `SP`. -/
theorem State.push_eq_some_iff (s t : State) (v : Word) :
    s.push v = some t ↔ ∃ h : s.SP.val < 16,
      t = s.setStack (s.STK.set s.SP.val v h) ⟨s.SP.val + 1, Nat.succ_lt_succ h⟩ := by
  unfold State.push
  split
  · rename_i h
    simp [h, eq_comm]
  · rename_i h
    simp [h]

theorem State.push_eq_none_iff (s : State) (v : Word) : s.push v = none ↔ s.SP.val = 16 := by
  have := s.SP.isLt
  unfold State.push
  split
  · simp; omega
  · simp; omega

/-- `pop` succeeds exactly when an entry is in use, gives the newest one, and keeps every entry's content. -/
theorem State.pop_eq_some_iff (s t : State) (v : Word) :
    s.pop = some (v, t) ↔ ∃ h : 0 < s.SP.val,
      v = s.STK[s.SP.val - 1]'(by have := s.SP.isLt; omega) ∧
      t = s.setStack s.STK ⟨s.SP.val - 1, by have := s.SP.isLt; omega⟩ := by
  unfold State.pop
  split
  · rename_i h
    simp [h, eq_comm]
  · rename_i h
    simp [h]

theorem State.pop_eq_none_iff (s : State) : s.pop = none ↔ s.SP.val = 0 := by
  unfold State.pop
  split
  · simp; omega
  · simp; omega

/-! ### The operations over registers and memory do the same under any stack -/

theorem State.writeBytes_setStack (s : State) (a : Nat) (bs : List Byte) (k : Vector Word 16) (n : Fin 17) :
    (s.setStack k n).writeBytes a bs = (s.writeBytes a bs).setStack k n := by
  induction bs generalizing s a with
  | nil => rfl
  | cons b bs ih => exact ih (s.memWrite a b) (a + 1)

theorem State.setRegsFrom_setStack (s : State) (r : Nat) (bs : List Byte) (k : Vector Word 16) (n : Fin 17) :
    (s.setStack k n).setRegsFrom r bs = (s.setRegsFrom r bs).setStack k n := by
  induction bs generalizing s r with
  | nil => rfl
  | cons b bs ih => exact ih (s.setV (BitVec.ofNat 4 r) b) (r + 1)

theorem State.shiftI_setStack (s : State) (m : Nat) (k : Vector Word 16) (n : Fin 17) :
    (s.setStack k n).shiftI m = (s.shiftI m).setStack k n := by
  unfold State.shiftI
  rw [State.setStack_straps]
  split <;> rfl

theorem State.skipIf_setStack (s : State) (c : Bool) (k : Vector Word 16) (n : Fin 17) :
    (s.setStack k n).skipIf c = (s.skipIf c).setStack k n := by
  cases c <;> rfl

end Sys2Proof.Machine
end

