-- ==== Sys2Proof/Laws/Step.lean ====
section
/-! SUPPORT. What a step can do: the step by event, the instruction tick by its outcome, `exec` by completion or
fault, and runs of several steps. -/

namespace Sys2Proof.Machine

/-- The step of each event. -/
theorem step_of_nextEvent {s : State} {e : HostEvent} (h : s.nextEvent = e) : step s = deliver e s.beginEvent := by
  rw [step, h]

/-- A scheduled event comes next. -/
theorem nextEvent_of_schedule {s : State} {e : HostEvent} {rest : List HostEvent} (h : s.schedule = e :: rest) :
    s.nextEvent = e := by
  simp only [State.nextEvent, h]

/-- With nothing scheduled the event is free (log 1). -/
theorem nextEvent_of_empty {s : State} (h : s.schedule = []) : s.nextEvent = Config.freeEvent s.eventIndex := by
  simp only [State.nextEvent, h]

/-- An instruction tick comes next in the state made to have one. -/
theorem nextEvent_withInstrTickNext (s : State) : s.withInstrTickNext.nextEvent = .instrTick := by
  unfold State.withInstrTickNext
  split
  · exact nextEvent_of_schedule ‹_›
  · rfl

/-- The two bytes at `pc`, decoded as bytes, are the word there, decoded as a word. -/
theorem decode_two_bytes (s : State) (a : Nat) :
    decode (s.readBytes a 2) =
      match decodeWord (s.memRead a ++ s.memRead (a + 1)) with
      | .ok i => .ok (i, [])
      | .error r => .error r := rfl

/-- The fetch in range. -/
theorem fetchWord_in_range {s : State} (h : s.pc.toNat + 1 ≤ 4095) :
    s.fetchWord = some (s.memRead s.pc.toNat ++ s.memRead (s.pc.toNat + 1)) := by
  unfold State.fetchWord
  rw [if_neg (by omega)]

/-- The fetch out of range. -/
theorem fetchWord_out_of_range {s : State} (h : s.pc.toNat ≥ 4095) : s.fetchWord = none := by
  unfold State.fetchWord
  rw [if_pos (by omega)]

/-- The outcomes of an instruction tick: ignored, a fetch fault, an instruction, a diagnostic. -/
theorem instrTick_cases (s : State) :
    (s.FAULT ≠ none ∧ instrTick s = .next s) ∨
    (s.FAULT = none ∧ s.pc.toNat ≥ 4095 ∧ instrTick s = .next (s.latchFault .fetchAddress s.pc 0)) ∨
    (∃ w i, s.FAULT = none ∧ s.fetchWord = some w ∧ decodeWord w = .ok i ∧ instrTick s = exec i s) ∨
    (∃ w, s.FAULT = none ∧ s.fetchWord = some w ∧ decodeWord w = .error (.unrecognized w) ∧
      instrTick s = .next (s.advance.diag s.pc w)) := by
  unfold instrTick
  cases hf : s.FAULT with
  | some c => left; exact ⟨by simp, rfl⟩
  | none =>
    right
    by_cases hp : s.pc.toNat ≥ 4095
    · left
      rw [fetchWord_out_of_range hp]
      exact ⟨rfl, hp, rfl⟩
    · right
      rw [fetchWord_in_range (by omega)]
      generalize s.memRead s.pc.toNat ++ s.memRead (s.pc.toNat + 1) = w
      cases hl : lookupWord w with
      | some i => left; exact ⟨w, i, rfl, rfl, (decodeWord_eq_ok_iff w i).2 hl, by simp [decodeWord, hl]⟩
      | none => right; exact ⟨w, rfl, rfl, by simp [decodeWord, hl], by simp [decodeWord, hl, unrecognizedTick]⟩

/-- A memory instruction that fails its bounds check latches DATA_ADDRESS and does nothing else. -/
theorem exec_of_beyondMemory {i : Instr} {s : State} (h : s.beyondMemory (bytesAtI i) = true) :
    exec i s = .next (s.latchFault .dataAddress s.pc (encode i)) := by
  cases i <;> simp only [bytesAtI] at h <;>
    first
    | (simp [State.beyondMemory] at h; done)
    | (simp only [exec, execDrw, execLdB, execStoreRegs, execLoadRegs, h]; rfl)

/-- Drawing, sending and writing VF touch the display, the outputs and VF alone. -/
theorem frame_draw (s : State) (x y : Byte) (rows : List Byte) (n : Nat) (b : Byte) :
    Frame { regs := [15], device := true } s ((s.advance.dispDraw x y rows n).2.setV VF b) := by
  refine ⟨fun r hr => ?_, fun _ => rfl, fun _ => ⟨rfl, rfl⟩, fun _ => rfl, fun _ => rfl, fun _ _ => rfl,
    ⟨rfl, rfl, rfl⟩, ⟨rfl, rfl, rfl, rfl, rfl⟩, fun h => by simp at h, fun _ => rfl⟩
  exact State.getV_setV_other _ _ _ _ (by intro e; apply hr; simp [← e, VF])

/-- A block load touches the registers it loads alone. -/
theorem frame_loadRegs (s : State) (x : Reg) (bs : List Byte) (h : bs.length = x.toNat + 1) :
    Frame { regs := (List.range (x.toNat + 1)).map (BitVec.ofNat 4) } s (s.advance.setRegsFrom 0 bs) := by
  have hx := x.isLt
  have hreg : ∀ r, r ∉ (List.range (x.toNat + 1)).map (BitVec.ofNat 4) →
      (s.advance.setRegsFrom 0 bs).getV r = s.getV r := by
    intro r hr
    rw [State.getV_setRegsFrom _ _ _ _ (by omega), List.getElem?_eq_none]
    · rfl
    · by_contra hlt
      exact hr (List.mem_map.2 ⟨r.toNat, by simp; omega, by simp⟩)
  have e := State.setRegsFrom_eq s.advance 0 bs
  generalize s.advance.setRegsFrom 0 bs = t at *
  generalize t.V = v at e
  subst e
  exact ⟨hreg, fun _ => rfl, fun _ => ⟨rfl, rfl⟩, fun _ => rfl, fun _ => rfl, fun _ _ => rfl, ⟨rfl, rfl, rfl⟩,
    ⟨rfl, rfl, rfl, rfl, rfl⟩, fun _ => ⟨rfl, rfl⟩, fun _ => rfl⟩

/-- A run of several steps, one step at a time. -/
theorem run_succ_of_step {s t : State} (m : Nat) (h : step s = .next t) :
    Host.Core.run core (m + 1) s = Host.Core.run core m t := by
  have e : core.step s = .next t := h
  simp only [Host.Core.run, e]

end Sys2Proof.Machine
end

