-- ==== Sys2Proof/Tests/Slice0.lean ====
section
/-! SUPPORT. Tests whose expected results come from the spec (its vectors of spec/95_test_vectors.md and the encodings
of spec/30_encoding.md R66), the smoke test of WellFormed, and a witness for the hypotheses of each statement. -/

namespace Sys2Proof.Tests

open Sys2Proof Sys2Proof.Machine

/-! ### WellFormed: one check, one ill-formed term -/

theorem test_drw_row_count_refused : (Instr.drw 1 2 16).wellFormed = false := by decide
theorem test_drw_row_count_accepted : (Instr.drw 1 2 15).wellFormed = true := by decide

/-! ### Decoding: every constructor, its word written bit by bit from the `encoding` column -/

theorem test_decode_display :
    decodeWord 0b0000000011100000 = .ok .cls ∧ decodeWord 0b1101001110100101 = .ok (.drw 3 0xA 5) := by decide
theorem test_decode_control_flow :
    decodeWord 0b0000000011101110 = .ok .ret ∧ decodeWord 0b0001001000110100 = .ok (.jp 0x234) ∧
    decodeWord 0b0010001000110100 = .ok (.call 0x234) ∧ decodeWord 0b1011001000110100 = .ok (.jpo 0x234) := by decide
theorem test_decode_skips :
    decodeWord 0b0011001110100101 = .ok (.seImm 3 0xA5) ∧ decodeWord 0b0100001110100101 = .ok (.sneImm 3 0xA5) ∧
    decodeWord 0b0101001110100000 = .ok (.seReg 3 0xA) ∧ decodeWord 0b1001001110100000 = .ok (.sneReg 3 0xA) ∧
    decodeWord 0b1110001110011110 = .ok (.skp 3) ∧ decodeWord 0b1110001110100001 = .ok (.sknp 3) := by decide
theorem test_decode_loads_and_random :
    decodeWord 0b0110001110100101 = .ok (.ldImm 3 0xA5) ∧ decodeWord 0b0111001110100101 = .ok (.addImm 3 0xA5) ∧
    decodeWord 0b1100001110100101 = .ok (.rnd 3 0xA5) := by decide
theorem test_decode_alu :
    decodeWord 0b1000001110100000 = .ok (.ldReg 3 0xA) ∧ decodeWord 0b1000001110100001 = .ok (.orReg 3 0xA) ∧
    decodeWord 0b1000001110100010 = .ok (.andReg 3 0xA) ∧ decodeWord 0b1000001110100011 = .ok (.xorReg 3 0xA) ∧
    decodeWord 0b1000001110100100 = .ok (.addReg 3 0xA) ∧ decodeWord 0b1000001110100101 = .ok (.subReg 3 0xA) ∧
    decodeWord 0b1000001110100110 = .ok (.shr 3 0xA) ∧ decodeWord 0b1000001110100111 = .ok (.subnReg 3 0xA) ∧
    decodeWord 0b1000001110101110 = .ok (.shl 3 0xA) := by decide
theorem test_decode_index_memory :
    decodeWord 0b1010001000110100 = .ok (.ldI 0x234) ∧ decodeWord 0b1111001100011110 = .ok (.addI 3) ∧
    decodeWord 0b1111001100101001 = .ok (.ldF 3) ∧ decodeWord 0b1111001100110011 = .ok (.ldB 3) ∧
    decodeWord 0b1111001101010101 = .ok (.storeRegs 3) ∧ decodeWord 0b1111001101100101 = .ok (.loadRegs 3) := by decide
theorem test_decode_timer_key :
    decodeWord 0b1111001100000111 = .ok (.ldVxDT 3) ∧ decodeWord 0b1111001100001010 = .ok (.ldVxK 3) ∧
    decodeWord 0b1111001100010101 = .ok (.ldDTVx 3) ∧ decodeWord 0b1111001100011000 = .ok (.ldSTVx 3) := by decide

/-- The bytes 60 05 are the opcode 0x6005; swapped they are unrecognized (T-X1, T-X2). -/
theorem test_decode_is_big_endian :
    decode [0x60, 0x05, 0xFF] = .ok (.ldImm 0 5, [0xFF]) ∧ decode [0x05, 0x60] = .error (.unrecognized 0x0560) ∧
    decode [0x60] = .error .truncated := by decide

/-- T-X5 to T-X17: words next to a recognized one. -/
theorem test_unrecognized_words :
    [0x0000, 0x00E1, 0x01E0, 0x0123, 0x00EF, 0x5121, 0x912F, 0x8008, 0x800F, 0xE19F, 0xE1A0, 0xF000, 0xF145, 0xFFFF].all
      (fun w => lookupWord w == none) = true := by decide

/-- R66: the rows do not overlap. -/
theorem test_rows_do_not_overlap :
    opcodeRows.Pairwise (fun a b => a.1 &&& b.1 &&& (a.2 ^^^ b.2) ≠ 0) := by decide

/-- R66: the rows match 43954 of the 65536 words. -/
theorem test_recognized_count :
    (opcodeRows.map fun r => 2 ^ (List.range 16).countP fun k => !r.1.getLsbD k).sum = 43954 := by decide

theorem test_table_word : decodeTableWord 16 0xD125 = some (.drw 1 2 5) := by decide

/-! ### One step on a small state -/

/-- What a field holds after the step that runs the word. -/
def after {α : Type} (s : State) (w : Nat) (f : State → α) : Option α :=
  match step (s.withFetchWord 16 w) with
  | .next t => some (f t)
  | _ => none

/-- The reset state with some registers set. -/
def withRegs (rs : List (Reg × Byte)) : State := rs.foldl (fun s r => s.setV r.1 r.2) State.reset

/-- The reset state with the keys of a mask down and one register set. -/
def withKeys (mask : BitVec 16) (x : Reg) (b : Byte) : State := (State.reset.setKeys mask).setV x b

/-- The legacy dialect of shifts, jumps and stores. -/
def legacy (s : State) : State :=
  { s with straps := { shiftUsesVy := true, jumpAddsVx := false, storeShiftsI := true } }

-- S2, T-A1
theorem test_ldImm : after State.reset 0x6005 (fun t => (t.getV 0, t.pc)) = some (5, 0x202) := by decide
-- T-A2
theorem test_addImm_wraps : after (withRegs [(1, 0xFF), (15, 7)]) 0x7101 (fun t => (t.getV 1, t.getV 15)) = some (0, 7) := by decide
-- T-A4
theorem test_ldReg : after (withRegs [(2, 0x33)]) 0x8120 (fun t => t.getV 1) = some 0x33 := by decide
-- T-A5, T-A6, R103's example
theorem test_orReg : after (withRegs [(1, 0xF0), (2, 0x0F), (15, 5)]) 0x8121 (fun t => (t.getV 1, t.getV 15)) = some (0xFF, 5) := by decide
theorem test_andReg : after (withRegs [(1, 0xF0), (2, 0x3C)]) 0x8122 (fun t => t.getV 1) = some 0x30 := by decide
theorem test_xorReg : after (withRegs [(1, 0xF0), (2, 0x3C)]) 0x8123 (fun t => t.getV 1) = some 0xCC := by decide
-- T-A9, T-A11
theorem test_addReg_255_is_no_carry : after (withRegs [(1, 0xFF), (15, 1)]) 0x8124 (fun t => (t.getV 1, t.getV 15)) = some (0xFF, 0) := by decide
theorem test_addReg_flag_stays_in_VF : after (withRegs [(15, 0xF0), (1, 0x20)]) 0x8F14 (fun t => t.getV 15) = some 1 := by decide
-- T-A15, T-A16
theorem test_subReg_equal : after (withRegs [(1, 5), (2, 5)]) 0x8125 (fun t => (t.getV 1, t.getV 15)) = some (0, 1) := by decide
theorem test_subReg_borrow : after (withRegs [(2, 1), (15, 1)]) 0x8125 (fun t => (t.getV 1, t.getV 15)) = some (0xFF, 0) := by decide
-- T-A20, R107's example
theorem test_subnReg_borrow : after (withRegs [(1, 5), (2, 3), (15, 1)]) 0x8127 (fun t => (t.getV 1, t.getV 15)) = some (0xFE, 0) := by decide
theorem test_subnReg : after (withRegs [(1, 3), (2, 5)]) 0x8127 (fun t => (t.getV 1, t.getV 15)) = some (2, 1) := by decide
-- T-A22, T-A26
theorem test_shr_modern : after (withRegs [(1, 1), (2, 0xFE)]) 0x8126 (fun t => (t.getV 1, t.getV 2, t.getV 15)) = some (0, 0xFE, 1) := by decide
theorem test_shr_legacy_from_VF : after (legacy (withRegs [(15, 7)])) 0x81F6 (fun t => (t.getV 1, t.getV 15)) = some (3, 1) := by decide
-- T-A28, T-A29
theorem test_shl_modern : after (withRegs [(1, 0x7F), (2, 0x80), (15, 1)]) 0x812E (fun t => (t.getV 1, t.getV 15)) = some (0xFE, 0) := by decide
theorem test_shl_legacy : after (legacy (withRegs [(2, 0xC1)])) 0x812E (fun t => (t.getV 1, t.getV 2, t.getV 15)) = some (0x82, 0xC1, 1) := by decide
-- T-A30: the mask 0 gives 0 whatever the free byte is
theorem test_rnd_mask_zero (s : State) : ∃ t, exec (.rnd 1 0) s = .next t ∧ t.getV 1 = 0 ∧ t.pc = s.pc + 2 :=
  ⟨_, rfl, by simp, rfl⟩

-- T-C1, T-X10
theorem test_jp_odd : after State.reset 0x1235 (fun t => t.pc) = some 0x235 := by decide
theorem test_jp_op_decides : after State.reset 0x10EE (fun t => t.pc) = some 0xEE := by decide
-- T-C8, T-C9
theorem test_jpo_modern : after (withRegs [(0, 1), (2, 0xFF)]) 0xB2FF (fun t => t.pc) = some 0x3FE := by decide
theorem test_jpo_legacy : after (legacy (withRegs [(0, 1), (2, 0xFF)])) 0xB2FF (fun t => t.pc) = some 0x300 := by decide
-- T-C3
theorem test_call_pushes_0x1000 :
    after (State.reset.setPc 0xFFE) 0x2ABC (fun t => (t.STK[0], t.SP.val, t.pc)) = some (0x1000, 1, 0xABC) := by decide
-- T-C7
theorem test_call_overflow :
    after (State.reset.setStack (Vector.replicate 16 0x202) 16) 0x2300
      (fun t => (t.faultCode, t.FAULT_PC, t.FAULT_OP, t.pc, t.SP.val)) = some (1, 0x200, 0x2300, 0x200, 16) := by decide
-- T-C5
theorem test_ret_last_in_first_out :
    after ((State.reset.setStack (#v[0x202, 0xA01, 0, 0, 0, 0, 0, 0, 0, 0, 0, 0, 0, 0, 0, 0]) 2).setPc 0x300) 0x00EE
      (fun t => (t.pc, t.SP.val, t.STK[0])) = some (0xA01, 1, 0x202) := by decide
-- T-C4
theorem test_ret_underflow :
    after State.reset 0x00EE (fun t => (t.faultCode, t.FAULT_PC, t.FAULT_OP, t.pc, t.SP.val)) =
      some (2, 0x200, 0x00EE, 0x200, 0) := by decide

-- R90 and R91's examples
theorem test_seImm : after (withRegs [(3, 0x2A)]) 0x332A (fun t => t.pc) = some 0x204 := by decide
theorem test_sneImm : after (withRegs [(3, 0x2A)]) 0x432A (fun t => t.pc) = some 0x202 := by decide
-- T-K6, T-K8
theorem test_seReg : after (withRegs [(1, 1), (2, 2)]) 0x5120 (fun t => t.pc) = some 0x202 := by decide
theorem test_sneReg : after (withRegs [(1, 1), (2, 2)]) 0x9120 (fun t => t.pc) = some 0x204 := by decide
-- T-K9, T-K10, T-K11, T-K12
theorem test_skp_selected_key : after (withKeys 0x0400 5 0x1A) 0xE59E (fun t => t.pc) = some 0x204 := by decide
theorem test_skp_other_keys : after (withKeys 0xFBFF 5 0x1A) 0xE59E (fun t => t.pc) = some 0x202 := by decide
theorem test_sknp_selected_key : after (withKeys 0x0400 5 0x1A) 0xE5A1 (fun t => t.pc) = some 0x202 := by decide
theorem test_sknp_other_keys : after (withKeys 0xFBFF 5 0x1A) 0xE5A1 (fun t => t.pc) = some 0x204 := by decide

-- T-M1; T-M2, T-M3; T-M6, T-M7
theorem test_ldI : after State.reset 0xAFFF (fun t => t.I) = some 0x0FFF := by decide
theorem test_addI_no_flag : after ((withRegs [(1, 1), (15, 7)]).setI 0x0FFF) 0xF11E (fun t => (t.I, t.getV 15)) = some (0x1000, 7) := by decide
theorem test_addI_wraps : after ((withRegs [(1, 2)]).setI 0xFFFF) 0xF11E (fun t => t.I) = some 1 := by decide
theorem test_ldF_high_nibble_ignored : after (withRegs [(1, 0x3A)]) 0xF129 (fun t => t.I) = some 0x82 := by decide
theorem test_ldF_last_glyph : after (withRegs [(1, 0x0F)]) 0xF129 (fun t => t.I) = some 0x9B := by decide
-- T-M10, T-M11
theorem test_ldB_last_legal :
    after ((withRegs [(1, 0x7B)]).setI 0xFFD) 0xF133 (fun t => (t.readBytes 0xFFD 3, t.I)) = some ([1, 2, 3], 0xFFD) := by decide
theorem test_ldB_fault :
    after ((withRegs [(1, 0x7B)]).setI 0xFFE) 0xF133 (fun t => (t.faultCode, t.FAULT_OP, t.pc, Memory.lookup t.MEM 0xFFE)) =
      some (3, 0xF133, 0x200, none) := by decide
-- T-M13, T-M17
theorem test_storeRegs_legacy_at_the_end :
    after (legacy ((withRegs [(0, 0xA0), (15, 0xAF)]).setI 0xFF0)) 0xFF55 (fun t => (t.memRead 0xFF0, t.memRead 0xFFF, t.I)) =
      some (0xA0, 0xAF, 0x1000) := by decide
theorem test_storeRegs_does_not_wrap :
    after ((withRegs [(0, 1), (1, 2)]).setI 0xFFFF) 0xF155 (fun t => (t.faultCode, t.FAULT_OP, Memory.lookup t.MEM 0)) =
      some (3, 0xF155, none) := by decide
-- T-M15, T-M16
theorem test_loadRegs_modern :
    after (((withRegs [(1, 0x11)]).writeBytes 0x300 [0x7E, 0x7F]).setI 0x300) 0xF065 (fun t => (t.getV 0, t.getV 1, t.I)) =
      some (0x7E, 0x11, 0x300) := by decide
theorem test_loadRegs_legacy :
    after (legacy (((withRegs [(1, 0x11)]).writeBytes 0x300 [0x7E, 0x7F]).setI 0x300)) 0xF065 (fun t => (t.getV 0, t.getV 1, t.I)) =
      some (0x7E, 0x11, 0x301) := by decide

-- T-T1; T-T7, T-T10; T-T6; T-T5
theorem test_ldVxDT : after ((withRegs [(5, 0xEE)]).setDT 42) 0xF507 (fun t => (t.getV 5, t.DT)) = some (0x2A, 42) := by decide
theorem test_ldVxK_waits : after (withKeys 0 3 0x77) 0xF30A (fun t => (t.pc, t.getV 3)) = some (0x200, 0x77) := by decide
theorem test_ldVxK_lowest : after (withKeys 0x0088 3 0x77) 0xF30A (fun t => (t.pc, t.getV 3)) = some (0x202, 3) := by decide
theorem test_ldDTVx_from_VF : after (withRegs [(15, 0xFF)]) 0xFF15 (fun t => (t.DT, t.getV 15)) = some (255, 0xFF) := by decide
theorem test_ldSTVx : after (withRegs [(2, 0x1E)]) 0xF218 (fun t => (t.ST, t.soundActive)) = some (30, true) := by decide

-- R80's example; T-D2
theorem test_cls : after (State.reset.setDisplay { width := 64, height := 32, lit := [(0, 5)] }) 0x00E0
    (fun t => (t.out, t.display.lit, t.pc)) = some ([.dispClear], [], 0x202) := by decide
theorem test_drw_no_rows : after ((withRegs [(15, 1)]).setI 0xFFFF) 0xD120
    (fun t => (t.out, t.getV 15, t.pc)) = some ([.dispDraw 0 0 [] 0], 0, 0x202) := by decide
-- T-D6: the origin wraps, bit 7 is the leftmost
theorem test_draw_origin_wraps :
    (Display.draw { width := 64, height := 32, lit := [] } 66 33 [0xC0] 1) =
      (false, { width := 64, height := 32, lit := [(1, 2), (1, 3)] }) := by decide
-- T-D9: XOR and collision
theorem test_draw_collides :
    (Display.draw { width := 64, height := 32, lit := [(0, 0), (0, 1), (0, 2), (0, 3)] } 0 0 [0x18] 1) =
      (true, { width := 64, height := 32, lit := [(0, 0), (0, 1), (0, 2), (0, 4)] }) := by decide
-- T-D7, T-D8: clipped at the right and at the bottom edge
theorem test_draw_clips :
    (Display.draw { width := 64, height := 32, lit := [] } 255 255 [0xC0] 1).2.lit = [(31, 63)] ∧
    (Display.draw { width := 64, height := 32, lit := [] } 0 31 [0x80, 0x80] 2).2.lit = [(31, 0)] := by decide

-- T-X3: an odd pc
theorem test_odd_pc : after ((withRegs [(4, 0x56)]).setPc 0x201) 0x3456 (fun t => t.pc) = some 0x205 := by decide
-- T-X2: an unrecognized word
theorem test_unrecognized_tick : after State.reset 0x0560 (fun t => (t.pc, t.out, t.FAULT)) =
    some (0x202, [.diag 0x200 0x0560], none) := by decide

/-- A state with one coming event. -/
def coming (s : State) (e : HostEvent) : State := { s with schedule := [e] }

/-- What a field holds after one event. -/
def afterEvent {α : Type} (s : State) (e : HostEvent) (f : State → α) : Option α :=
  match step (coming s e) with
  | .next t => some (f t)
  | _ => none

-- T-E2: a fetch at 0xFFF
theorem test_fetch_fault : afterEvent (State.reset.setPc 0xFFF) .instrTick (fun t => (t.faultCode, t.FAULT_PC, t.FAULT_OP, t.pc)) =
    some (4, 0xFFF, 0, 0xFFF) := by decide
-- T-E3: in the fault state the timers run and instruction ticks are ignored
theorem test_fault_state :
    afterEvent ((State.reset.latchFault .fetchAddress 0xFFF 0).setDT 3) .timerTick (fun t => t.DT) = some 2 ∧
    afterEvent ((State.reset.latchFault .fetchAddress 0xFFF 0).setPc 0xFFF) .instrTick (fun t => (t.pc, t.faultCode)) =
      some (0xFFF, 4) := by decide
-- T-T2
theorem test_timers_stop_at_zero : afterEvent State.reset .timerTick (fun t => (t.DT, t.ST)) = some (0, 0) := by decide
-- T-E4: the way out of the fault state
theorem test_reset_event :
    afterEvent (((withRegs [(1, 9)]).setPc 0x300).latchFault .stackOverflow 0x300 0x2300) .reset
      (fun t => (t.pc, t.SP.val, t.faultCode, t.getV 1)) = some (0x200, 0, 0, 0) := by decide
theorem test_keys_event : afterEvent State.reset (.keys 0x0120) (fun t => t.KEYS) = some 0x0120 := by decide
-- S6: the glyph of A, with the customary font; the image at 0x200
theorem test_preload :
    afterEvent State.reset (.preload customaryFont [0x60, 0x05]) (fun t => (t.readBytes 0x82 5, t.fetchWord)) =
      some ([0xF0, 0x90, 0xF0, 0x90, 0x90], some 0x6005) := by decide
-- R135: the order of the events of one iteration
theorem test_iteration_order :
    HostIteration.events { reset := true, keys := some 1, timerTick := true, instrTick := true } =
      [.reset, .keys 1, .timerTick, .instrTick] := by decide

/-! ### Witnesses: for each statement with hypotheses, a state and operands that meet them together, at the boundary
values of each clause -/

/-- The reset state with `pc`, `I` and the number of stack entries set. -/
def at3 (pc I : Word) (sp : Fin 17) : State := ((State.reset.setPc pc).setI I).setStack State.reset.STK sp

/-- A state in the fault state. -/
def faulted : State := State.reset.latchFault .stackUnderflow 0x200 0x00EE

theorem witness_DecodeOfEncodeGivesTheInstructionBack :
    (Instr.drw 15 0 15).wellFormed = true ∧ (Instr.drw 0 15 0).wellFormed = true ∧
    (Instr.jp 0xFFF).wellFormed = true := by decide
theorem witness_EncodeOfDecodeGivesTheWordBack :
    decodeWord 0xDFFF = .ok (.drw 15 15 15) ∧ decodeWord 0xFF65 = .ok (.loadRegs 15) := by decide

theorem witness_StepRunsTheDecodedInstruction : ∃ s : State, s.nextEvent = .instrTick ∧ s.running ∧
    s.pc.toNat + 1 ≤ 4095 ∧ s.pc = 0xFFE ∧ decode (s.readBytes s.pc.toNat 2) = .ok (.jp 0x234, []) :=
  ⟨(State.reset.setPc 0xFFE).withFetchWord 16 0x1234, by decide⟩
theorem witness_UnrecognizedOpcodeOnlyAdvancesPcAndRaisesDiag : ∃ s : State, s.nextEvent = .instrTick ∧ s.running ∧
    s.pc.toNat + 1 ≤ 4095 ∧ decode (s.readBytes s.pc.toNat 2) = .error (.unrecognized 0x0560) :=
  ⟨State.reset.withFetchWord 16 0x0560, by decide⟩
theorem witness_FetchReadsTwoBytesOrLatchesAFault :
    (at3 4094 0 0).pc.toNat + 1 ≤ 4095 ∧ (at3 4095 0 0).pc.toNat ≥ 4095 ∧ (coming (at3 4095 0 0) .instrTick).nextEvent = .instrTick ∧
    (coming (at3 4095 0 0) .instrTick).running := by decide
theorem witness_FaultStateIgnoresInstructionTicks :
    (coming faulted .instrTick).nextEvent = .instrTick ∧ (coming faulted .instrTick).FAULT = some .stackUnderflow := by decide
theorem witness_FaultingTickCommitsNothingButTheLatch :
    (∃ s t : State, s.nextEvent = .instrTick ∧ s.running ∧ step s = .next t ∧ t.FAULT = some .stackUnderflow) ∧
    (∃ s t : State, s.nextEvent = .instrTick ∧ s.running ∧ step s = .next t ∧ t.FAULT = some .fetchAddress) :=
  ⟨⟨State.reset.withFetchWord 16 0x00EE, _, by decide, by decide, rfl, by decide⟩,
   ⟨coming (at3 4095 0 0) .instrTick, _, by decide, by decide, rfl, by decide⟩⟩

/-- The fault code after one instruction on a state. -/
def faultOf (i : Instr) (s : State) : Option (BitVec 3) :=
  match exec i s with
  | .next t => some t.faultCode
  | _ => none

/-- Both sides of every condition of R131. -/
theorem witness_InstructionsFaultExactlyOnTheirConditions :
    State.reset.running ∧
    faultOf (.call 0) (at3 0x200 0 15) = some 0 ∧ faultOf (.call 0) (at3 0x200 0 16) = some 1 ∧
    faultOf .ret (at3 0x200 0 1) = some 0 ∧ faultOf .ret (at3 0x200 0 0) = some 2 ∧
    faultOf (.ldB 0) (at3 0x200 4093 0) = some 0 ∧ faultOf (.ldB 0) (at3 0x200 4094 0) = some 3 ∧
    faultOf (.storeRegs 15) (at3 0x200 4080 0) = some 0 ∧ faultOf (.storeRegs 15) (at3 0x200 4081 0) = some 3 ∧
    faultOf (.loadRegs 0) (at3 0x200 4096 0) = some 3 ∧
    faultOf (.drw 0 0 15) (at3 0x200 4082 0) = some 3 ∧ faultOf (.drw 0 0 0) (at3 0x200 0xFFFF 0) = some 0 := by decide

theorem witness_ResetEventRestoresTheCore : (coming State.reset .reset).nextEvent = .reset := by decide
theorem witness_TimerTickStepsBothTimersAndNothingElse :
    (coming State.reset .timerTick).nextEvent = .timerTick ∧ (coming faulted .timerTick).nextEvent = .timerTick := by
  decide
theorem witness_TimersCountDownToZeroAndStay :
    ({ State.reset.setDT 2 with schedule := [.timerTick, .timerTick, .timerTick, .instrTick] }).schedule =
      List.replicate 3 .timerTick ++ [.instrTick] := by decide
theorem witness_KeyRefreshChangesOnlyTheMask : (coming State.reset (.keys 0xFFFF)).nextEvent = .keys 0xFFFF := by decide
/-- Of PreloadPlacesTheImageOrNeverStarts and PreloadPlacesTheFontAndResetsTheCore: the longest image that fits, the
shortest that does not. -/
theorem witness_Preload : ∃ image tooLong : List Byte,
    (coming State.reset (.preload customaryFont image)).nextEvent = .preload customaryFont image ∧ image.length = 3584 ∧
    (coming State.reset (.preload customaryFont tooLong)).nextEvent = .preload customaryFont tooLong ∧ tooLong.length = 3585 :=
  ⟨List.replicate 3584 0x60, List.replicate 3585 0x60, rfl, List.length_replicate, rfl, List.length_replicate⟩
theorem witness_TimerTickPrecedesTheInstructionOfItsIteration : ∃ s : State,
    s.schedule = HostIteration.events { reset := false, keys := none, timerTick := true, instrTick := true } ++ [] ∧
    s.running ∧ s.pc.toNat + 1 ≤ 4095 ∧ decode (s.readBytes s.pc.toNat 2) = .ok (.ldVxDT 5, []) :=
  ⟨{ (State.reset.withFetchWord 16 0xF507).setDT 1 with schedule := [.timerTick, .instrTick] }, by decide⟩
theorem witness_NewMaskPrecedesTheInstructionOfItsIteration : ∃ s : State,
    s.schedule =
      HostIteration.events { reset := false, keys := some 0x0400, timerTick := false, instrTick := true } ++ [] ∧
    s.running ∧ s.pc.toNat + 1 ≤ 4095 ∧ decode (s.readBytes s.pc.toNat 2) = .ok (.skp 5, []) :=
  ⟨{ State.reset.withFetchWord 16 0xE59E with schedule := [.keys 0x0400, .instrTick] }, by decide⟩
theorem witness_PlacedWordIsTheInstructionTheNextStepRuns :
    decodeTableWord 16 0x00E0 = some .cls ∧ decodeTableWord 16 0xFF65 = some (.loadRegs 15) := by decide

theorem witness_EveryStepKeepsTheInvariant : ∃ s t : State, s.Inv ∧ step s = .next t ∧ t.FAULT = some .stackUnderflow :=
  ⟨State.reset.withFetchWord 16 0x00EE, _, ⟨by decide, Display.afterReset_wf _ _, by rintro c ⟨⟩, by rintro c ⟨⟩⟩, rfl, by decide⟩
/-- R131, T-D2: a DATA_ADDRESS latched for a Dxyn within bounds, or for one of no rows, is no precise fault. -/
theorem test_in_bounds_draw_is_not_explained :
    ¬Cause.dataAddress.explains ((at3 0x200 0xFFF 0).latchFault .dataAddress 0x200 0xD121) ∧
    ¬Cause.dataAddress.explains ((at3 0x200 0xFFFF 0).latchFault .dataAddress 0x200 0xD120) := by
  constructor <;> rintro ⟨i, hd, h1, h2⟩ <;>
    first
    | (obtain rfl : Instr.drw 1 2 1 = i := Except.ok.inj hd; revert h2; decide)
    | (obtain rfl : Instr.drw 1 2 0 = i := Except.ok.inj hd; revert h1; decide)
/-- R131: one that crosses the end of memory is. -/
theorem test_out_of_bounds_draw_is_explained :
    Cause.dataAddress.explains ((at3 0x200 0xFFF 0).latchFault .dataAddress 0x200 0xD122) :=
  ⟨.drw 1 2 2, by decide, by decide, by decide⟩
theorem witness_CanonicalMemoriesThatListTheSameBytesAreEqual : ∃ m : List Host.Cell, Memory.wf m ∧ m.length = 2 :=
  ⟨[(0, 1), (4095, 2)], by decide⟩

theorem witness_InstructionsStayWithinTheAccessMatrix :
    (∃ s t : State, s.running ∧ exec (.storeRegs 15) s = .next t ∧ t.running) ∧
    (∃ s t : State, s.running ∧ exec (.storeRegs 15) s = .next t ∧ ¬t.running) :=
  ⟨⟨at3 0x200 4080 0, _, by decide, rfl, by decide⟩, ⟨at3 0x200 4081 0, _, by decide, rfl, by decide⟩⟩
/-- Of StackIsReachedByCallAndReturnAlone, MemoryIsWrittenByTwoInstructionsAlone and
TimersAreWrittenByTheirInstructionsAlone. -/
theorem witness_WrittenByTheirInstructionsAlone : ∃ t, exec (.addReg 1 2) State.reset = .next t ∧
    (∀ nnn, Instr.addReg 1 2 ≠ .call nnn) ∧ Instr.addReg 1 2 ≠ .ret ∧ (∀ x, Instr.addReg 1 2 ≠ .ldB x) ∧
    (∀ x, Instr.addReg 1 2 ≠ .storeRegs x) ∧ (∀ x, Instr.addReg 1 2 ≠ .ldDTVx x) ∧
    ∀ x, Instr.addReg 1 2 ≠ .ldSTVx x := by
  exact ⟨_, rfl, by simp⟩
theorem witness_IndexIsWrittenByItsInstructionsAlone :
    (∃ t, exec (.ldI 0xFFF) State.reset = .next t ∧ t.I ≠ State.reset.I) ∧
    (∃ s t : State, s.straps.storeShiftsI = true ∧ exec (.storeRegs 15) s = .next t ∧ t.I ≠ s.I) :=
  ⟨⟨_, rfl, by decide⟩, ⟨legacy (at3 0x200 4080 0), _, rfl, rfl, by decide⟩⟩
theorem witness_NoStepChangesTheStraps : ∃ t, step (coming State.reset .reset) = .next t := ⟨_, rfl⟩
theorem witness_OnlyAResetClearsTheFaultLatch :
    (∃ s t : State, s.FAULT = some .stackUnderflow ∧ s.nextEvent = .instrTick ∧ step s = .next t ∧
      t.FAULT = some .stackUnderflow) ∧
    (∃ s t : State, s.FAULT = some .stackUnderflow ∧ s.nextEvent = .preload customaryFont [0x60, 0x05] ∧
      step s = .next t ∧ t.FAULT = none) ∧
    (∃ s t : State, s.FAULT = some .stackUnderflow ∧ s.nextEvent = .reset ∧ step s = .next t ∧ t.FAULT = none) :=
  ⟨⟨coming faulted .instrTick, _, by decide, by decide, rfl, by decide⟩,
   ⟨coming faulted (.preload customaryFont [0x60, 0x05]), _, by decide, by decide, rfl, rfl⟩,
   ⟨coming faulted .reset, _, by decide, by decide, rfl, rfl⟩⟩
theorem witness_FlagWritersLeaveZeroOrOne : ∃ t, State.reset.running ∧ exec (.addReg 15 15) State.reset = .next t ∧
    t.running ∧ ∃ x y, Instr.addReg 15 15 = .addReg x y := ⟨_, by decide, rfl, by decide, 15, 15, rfl⟩

theorem witness_DrwSendsOneDrawCommandAndSetsVF :
    (0 < 16 ∧ ((0 = 0) ∨ (at3 0x200 0xFFFF 0).I.toNat + 0 - 1 ≤ 4095)) ∧
    (15 < 16 ∧ (at3 0x200 4081 0).I.toNat + 15 - 1 ≤ 4095) ∧
    (15 < 16 ∧ 15 ≥ 1 ∧ (at3 0x200 4082 0).I.toNat + 15 - 1 > 4095) ∧
    (1 ≥ 1 ∧ (at3 0x200 4096 0).I.toNat + 1 - 1 > 4095) := by decide
/-- Of DrawXorsTheSpriteAndReportsCollision and DrawingTwiceRestoresTheSurface. -/
theorem witness_Draw : Display.wf { width := 64, height := 32, lit := [(0, 0), (0, 63), (31, 63)] } ∧
    Display.wf State.reset.display := ⟨by decide, Display.afterReset_wf _ _⟩

theorem witness_CallPushesTheNextAddressAndJumps :
    (at3 0x200 0 15).SP.val < 16 ∧ (at3 0x200 0 16).SP.val = 16 := by decide
theorem witness_RetPopsTheNewestEntryIntoPc : (at3 0x200 0 1).SP.val > 0 ∧ (at3 0x200 0 0).SP.val = 0 := by decide
theorem witness_ReturnResumesAfterTheMatchingCall : ∃ t u : State, (at3 0x200 0 15).SP.val < 16 ∧
    exec (.call 0x300) (at3 0x200 0 15) = .next t ∧ u.STK = t.STK ∧ u.SP = t.SP :=
  ⟨_, _, by decide, rfl, rfl, rfl⟩

theorem witness_LdBStoresTheDecimalDigits :
    (at3 0x200 4093 0).I.toNat + 2 ≤ 4095 ∧ (at3 0x200 4094 0).I.toNat + 2 > 4095 := by decide
/-- Of StoreRegsWritesV0ToVxToMemory and LoadRegsReadsV0ToVxFromMemory. -/
theorem witness_BlockTransfer :
    (at3 0x200 4080 0).I.toNat + (15 : Reg).toNat ≤ 4095 ∧ (at3 0x200 4081 0).I.toNat + (15 : Reg).toNat > 4095 ∧
    (at3 0x200 4095 0).I.toNat + (0 : Reg).toNat ≤ 4095 ∧ (at3 0x200 4096 0).I.toNat + (0 : Reg).toNat > 4095 := by
  decide
theorem witness_StoreThenLoadRestoresTheRegisters : ∃ s t u : State, s.I.toNat + (15 : Reg).toNat ≤ 4095 ∧
    exec (.storeRegs 15) s = .next t ∧ (∀ a, u.memRead a = t.memRead a) ∧ u.I = s.I ∧ t.I ≠ s.I :=
  ⟨legacy (at3 0x200 4080 0), _, State.setI _ 4080, by decide, rfl, fun _ => rfl, rfl, by decide⟩
theorem witness_StoreIsSeenByTheNextFetch : (at3 4092 4094 0).I = (at3 4092 4094 0).pc + 2 ∧
    (at3 4092 4094 0).I.toNat + (1 : Reg).toNat ≤ 4095 ∧ (1 : Reg).toNat ≥ 1 := by decide
theorem witness_KeyWaitRepeatsUntilAKeyIsDown :
    (withKeys 0 3 0).KEYS = 0 ∧ (withKeys 0x8000 3 0).KEYS ≠ 0 ∧ (withKeys 0xFFFF 3 0).KEYS ≠ 0 := by decide

end Sys2Proof.Tests
end

section
/-! The outcome of every instruction: a latched fault or the frame of the access matrix (spec/10_state.md R35,
spec/60_exceptions.md R133). It gives what no event changes, of which the straps (spec/00_scope.md R5) are one. -/

namespace Sys2Proof.Machine

/-! ### Frames of the operations that have none yet -/

/-- Clearing the display touches the display and the outputs alone (40_display.md R80). -/
theorem frame_dispClear (s : State) : Frame { device := true } s s.advance.dispClear :=
  ⟨fun _ _ => rfl, fun _ => rfl, fun _ => ⟨rfl, rfl⟩, fun _ => rfl, fun _ => rfl, fun _ _ => rfl, ⟨rfl, rfl, rfl⟩,
    ⟨rfl, rfl, rfl, rfl, rfl⟩, nofun, fun _ => rfl⟩

/-- Replacing the stack and writing `pc` (41_control_flow.md R85, R87). -/
theorem frame_setStack_setPc (s : State) (stk : Vector Word 16) (sp : Fin 17) (v : Word) :
    Frame { stack := true } s ((s.advance.setStack stk sp).setPc v) :=
  ⟨fun _ _ => rfl, fun _ => rfl, nofun, fun _ => rfl, fun _ => rfl, fun _ _ => rfl, ⟨rfl, rfl, rfl⟩,
    ⟨rfl, rfl, rfl, rfl, rfl⟩, fun _ => ⟨rfl, rfl⟩, fun _ => rfl⟩

/-- Consuming the random input and writing one register (43_alu.md R112). -/
theorem frame_randUsed_setV (s : State) (x : Reg) (b : Byte) :
    Frame { regs := [x], random := true } s (s.advance.randUsed.setV x b) :=
  ⟨(frame_setV s x b).regs, fun _ => rfl, fun _ => ⟨rfl, rfl⟩, fun _ => rfl, fun _ => rfl, fun _ _ => rfl,
    ⟨rfl, rfl, rfl⟩, ⟨rfl, rfl, rfl, rfl, rfl⟩, fun _ => ⟨rfl, rfl⟩, nofun⟩

/-- Writing the delay timer alone (45_timer_key.md R123). -/
theorem frame_setDT (s : State) (b : Byte) : Frame { delay := true } s (s.advance.setDT b) :=
  ⟨fun _ _ => rfl, fun _ => rfl, fun _ => ⟨rfl, rfl⟩, nofun, fun _ => rfl, fun _ _ => rfl, ⟨rfl, rfl, rfl⟩,
    ⟨rfl, rfl, rfl, rfl, rfl⟩, fun _ => ⟨rfl, rfl⟩, fun _ => rfl⟩

/-- Writing the sound timer alone (45_timer_key.md R124). -/
theorem frame_setST (s : State) (b : Byte) : Frame { sound := true } s (s.advance.setST b) :=
  ⟨fun _ _ => rfl, fun _ => rfl, fun _ => ⟨rfl, rfl⟩, fun _ => rfl, nofun, fun _ _ => rfl, ⟨rfl, rfl, rfl⟩,
    ⟨rfl, rfl, rfl, rfl, rfl⟩, fun _ => ⟨rfl, rfl⟩, fun _ => rfl⟩

/-! ### The outcome of an instruction -/

/-- The two outcomes an instruction may have: it latches a fault at `pc` and does nothing else, or it completes within
its row of the access matrix. -/
def FaultsOrKeepsFrame (i : Instr) (s : State) (o : Host.Outcome State Fault Refusal) : Prop :=
  (∃ c, o = .next (s.latchFault c s.pc (encode i))) ∨ ∃ t, o = .next t ∧ Frame (accessMatrix i s) s t

theorem FaultsOrKeepsFrame.of_frame {i : Instr} {s t : State} (h : Frame (accessMatrix i s) s t) :
    FaultsOrKeepsFrame i s (.next t) := .inr ⟨t, rfl, h⟩

theorem FaultsOrKeepsFrame.of_raiseFault (i : Instr) (s : State) (c : Cause) :
    FaultsOrKeepsFrame i s (raiseFault s c (encode i)) := .inl ⟨c, rfl⟩

/-- A memory instruction: the fault of its bounds check (20_memory.md R48), or its frame. -/
theorem FaultsOrKeepsFrame.of_boundsCheck {i : Instr} {s t : State} (beyond : Bool)
    (h : Frame (accessMatrix i s) s t) :
    FaultsOrKeepsFrame i s (if beyond then raiseFault s .dataAddress (encode i) else .next t) := by
  cases beyond with
  | true => exact of_raiseFault i s .dataAddress
  | false => exact of_frame h

open FaultsOrKeepsFrame in
theorem execCall_faultsOrKeepsFrame (nnn : BitVec 12) (s : State) :
    FaultsOrKeepsFrame (.call nnn) s (execCall nnn s) := by
  unfold execCall
  cases hp : s.advance.push s.advance.pc with
  | none => exact of_raiseFault (.call nnn) s .stackOverflow
  | some t =>
    obtain ⟨_, rfl⟩ := (State.push_eq_some_iff _ _ _).1 hp
    exact of_frame (frame_setStack_setPc s _ _ _)

open FaultsOrKeepsFrame in
theorem execRet_faultsOrKeepsFrame (s : State) : FaultsOrKeepsFrame .ret s (execRet s) := by
  unfold execRet
  cases hp : s.advance.pop with
  | none => exact of_raiseFault .ret s .stackUnderflow
  | some p =>
    obtain ⟨target, t⟩ := p
    obtain ⟨_, _, rfl⟩ := (State.pop_eq_some_iff _ _ _).1 hp
    exact of_frame (frame_setStack_setPc s _ _ _)

/-- Fx0A writes its register only when a key is down, as its row of the access matrix says (45_timer_key.md R122). -/
theorem execLdVxK_faultsOrKeepsFrame (x : Reg) (s : State) :
    FaultsOrKeepsFrame (.ldVxK x) s (execLdVxK x s) := by
  apply Or.inr
  unfold execLdVxK
  simp only [accessMatrix, State.advance_KEYS, ← lowestKey_eq_none_iff]
  cases lowestKey s.KEYS with
  | none => exact ⟨_, rfl, frame_setPc s _⟩
  | some k => exact ⟨_, rfl, frame_setV s x _⟩

open FaultsOrKeepsFrame in
/-- WHAT AN INSTRUCTION CAN DO: it latches a fault and nothing else, or it completes within its row. -/
theorem exec_faultsOrKeepsFrame (i : Instr) (s : State) : FaultsOrKeepsFrame i s (exec i s) := by
  cases i with
  | cls => exact of_frame (frame_dispClear s)
  | ret => exact execRet_faultsOrKeepsFrame s
  | jp nnn => exact of_frame (frame_setPc s _)
  | call nnn => exact execCall_faultsOrKeepsFrame nnn s
  | jpo nnn => exact of_frame (frame_setPc s _)
  | seImm x nn => exact of_frame (frame_skipIf s _)
  | sneImm x nn => exact of_frame (frame_skipIf s _)
  | seReg x y => exact of_frame (frame_skipIf s _)
  | sneReg x y => exact of_frame (frame_skipIf s _)
  | skp x => exact of_frame (frame_skipIf s _)
  | sknp x => exact of_frame (frame_skipIf s _)
  | ldImm x nn => exact of_frame (frame_setV s x _)
  | addImm x nn => exact of_frame (frame_setV s x _)
  | ldReg x y => exact of_frame (frame_setV s x _)
  | orReg x y => exact of_frame (frame_setV s x _)
  | andReg x y => exact of_frame (frame_setV s x _)
  | xorReg x y => exact of_frame (frame_setV s x _)
  | ldVxDT x => exact of_frame (frame_setV s x _)
  | addReg x y => exact of_frame (frame_setResultThenFlag s x _ _)
  | subReg x y => exact of_frame (frame_setResultThenFlag s x _ _)
  | subnReg x y => exact of_frame (frame_setResultThenFlag s x _ _)
  | shr x y => exact of_frame (frame_setResultThenFlag s x _ _)
  | shl x y => exact of_frame (frame_setResultThenFlag s x _ _)
  | rnd x nn => exact of_frame (frame_randUsed_setV s x _)
  | ldVxK x => exact execLdVxK_faultsOrKeepsFrame x s
  | ldDTVx x => exact of_frame (frame_setDT s _)
  | ldSTVx x => exact of_frame (frame_setST s _)
  | ldI nnn => exact of_frame (frame_setI s _)
  | addI x => exact of_frame (frame_setI s _)
  | ldF x => exact of_frame (frame_setI s _)
  | drw x y n => exact of_boundsCheck _ (frame_draw s _ _ _ n _)
  | ldB x => exact of_boundsCheck _ (frame_writeBytes s _ 3 _ rfl)
  | storeRegs x => exact of_boundsCheck _ (frame_shiftI _ (frame_writeBytes s _ _ _ (s.length_regsUpTo x)))
  | loadRegs x => exact of_boundsCheck _ (frame_shiftI _ (frame_loadRegs s x _ (s.length_readBytes _ _)))

/-- `exec` inverted: a next state is the fault's, or within the frame. -/
theorem exec_cases {i : Instr} {s t : State} (h : exec i s = .next t) :
    (∃ c, t = s.latchFault c s.pc (encode i)) ∨ Frame (accessMatrix i s) s t := by
  obtain ⟨c, hc⟩ | ⟨u, hu, hframe⟩ := exec_faultsOrKeepsFrame i s
  · exact .inl ⟨c, Host.Outcome.next.inj (h.symm.trans hc)⟩
  · obtain rfl := Host.Outcome.next.inj (h.symm.trans hu)
    exact .inr hframe

/-! ### The straps -/

@[simp] theorem State.writeBytes_straps (s : State) (a : Nat) (bs : List Byte) :
    (s.writeBytes a bs).straps = s.straps := by
  rw [State.writeBytes_eq]

@[simp] theorem State.freshMemory_straps (s : State) : s.freshMemory.straps = s.straps := rfl

@[simp] theorem State.resetCore_straps (s : State) : s.resetCore.straps = s.straps := rfl

theorem exec_straps {i : Instr} {s t : State} (h : exec i s = .next t) : t.straps = s.straps := by
  obtain ⟨c, rfl⟩ | hframe := exec_cases h
  · exact State.latchFault_straps s c s.pc (encode i)
  · exact hframe.inputs.1

theorem instrTick_straps {s t : State} (h : instrTick s = .next t) : t.straps = s.straps := by
  obtain ⟨_, e⟩ | ⟨_, _, e⟩ | ⟨_, _, _, _, _, e⟩ | ⟨_, _, _, _, e⟩ := instrTick_cases s <;> rw [e] at h
  case inr.inr.inl => exact exec_straps h
  all_goals cases h; rfl

/-- A preload that is accepted: it ends in the reset, over a memory written anew (70_reset_and_hazards.md R162). -/
theorem preload_eq_next {s t : State} {font : Vector Byte 80} {image : List Byte}
    (h : preload s font image = .next t) :
    t = ((s.freshMemory.writeBytes Config.fontBase font.toList).writeBytes Config.romBase image).resetCore := by
  unfold preload at h
  split at h
  · cases h
  · exact (Host.Outcome.next.inj h).symm

theorem deliver_straps {e : HostEvent} {s t : State} (h : deliver e s = .next t) : t.straps = s.straps := by
  cases e with
  | reset => cases h; rfl
  | preload font image => rw [preload_eq_next h]; simp
  | keys mask => cases h; rfl
  | timerTick => cases h; rfl
  | instrTick => exact instrTick_straps h

/-- Settles O30, event by event; an instruction tick keeps the straps because its instruction's frame does. -/
theorem noStepChangesTheStraps : Obligations.NoStepChangesTheStraps := by
  intro s t h
  calc t.straps = s.beginEvent.straps := deliver_straps h
    _ = s.straps := s.beginEvent_straps

end Sys2Proof.Machine
end

section
/-! The statements of spec/10_state.md: what each instruction may touch, read off its outcome (`exec_cases`) and the
access matrix (R35); that the stack is not even read (R21); the flag (R14); and the reset, keys and fault-state rules
(R26, R29, R34). -/

namespace Sys2Proof.Machine

/-! ### The access matrix (R35) -/

theorem State.latchFault_not_running (s : State) (c : Cause) (a w : Word) : ¬ (s.latchFault c a w).running := nofun

/-- Settles O25: of the two outcomes of `exec_cases`, a fault leaves the core not running and its frame leaves it
running. -/
theorem instructionsStayWithinTheAccessMatrix : Obligations.InstructionsStayWithinTheAccessMatrix := by
  intro i s t hs h
  obtain ⟨c, rfl⟩ | hframe := exec_cases h
  · rw [if_neg (s.latchFault_not_running c s.pc (encode i))]
    rfl
  · have hrun : t.running := hframe.latch.1.trans hs
    rwa [if_pos hrun]

/-! Which rows of the matrix name the stack, the index register and the timers. -/

theorem accessMatrix_stack_iff (i : Instr) (s : State) :
    (accessMatrix i s).stack = true ↔ i = .ret ∨ ∃ nnn, i = .call nnn := by
  cases i <;> simp [accessMatrix]

theorem accessMatrix_index_iff (i : Instr) (s : State) :
    (accessMatrix i s).index = true ↔
      (∃ nnn, i = .ldI nnn) ∨ (∃ x, i = .addI x) ∨ (∃ x, i = .ldF x) ∨
      (s.straps.storeShiftsI = true ∧ ((∃ x, i = .storeRegs x) ∨ ∃ x, i = .loadRegs x)) := by
  cases i <;> simp [accessMatrix]

theorem accessMatrix_delay_iff (i : Instr) (s : State) :
    (accessMatrix i s).delay = true ↔ ∃ x, i = .ldDTVx x := by
  cases i <;> simp [accessMatrix]

theorem accessMatrix_sound_iff (i : Instr) (s : State) :
    (accessMatrix i s).sound = true ↔ ∃ x, i = .ldSTVx x := by
  cases i <;> simp [accessMatrix]

/-! What an instruction whose row does not name a piece of state leaves there, faulting or not. -/

section
variable {i : Instr} {s t : State} (h : exec i s = .next t)
include h

theorem exec_stack (hrow : (accessMatrix i s).stack = false) : t.STK = s.STK ∧ t.SP = s.SP := by
  obtain ⟨c, rfl⟩ | hframe := exec_cases h
  · exact ⟨rfl, rfl⟩
  · exact hframe.stack hrow

theorem exec_index (hrow : (accessMatrix i s).index = false) : t.I = s.I := by
  obtain ⟨c, rfl⟩ | hframe := exec_cases h
  · rfl
  · exact hframe.index hrow

theorem exec_delay (hrow : (accessMatrix i s).delay = false) : t.DT = s.DT := by
  obtain ⟨c, rfl⟩ | hframe := exec_cases h
  · rfl
  · exact hframe.delay hrow

theorem exec_sound (hrow : (accessMatrix i s).sound = false) : t.ST = s.ST := by
  obtain ⟨c, rfl⟩ | hframe := exec_cases h
  · rfl
  · exact hframe.sound hrow

end

/-- Settles O28: an instruction that changes `I` has a row that names it. -/
theorem indexIsWrittenByItsInstructionsAlone : Obligations.IndexIsWrittenByItsInstructionsAlone := by
  intro i s t h hI
  have hrow : (accessMatrix i s).index = true := by
    rw [← Bool.not_eq_false]
    exact mt (exec_index h) hI
  exact (accessMatrix_index_iff i s).1 hrow

/-- Settles O29: only the rows of Fx15 and Fx18 name a timer. -/
theorem timersAreWrittenByTheirInstructionsAlone : Obligations.TimersAreWrittenByTheirInstructionsAlone := by
  intro i s t h
  refine ⟨fun hi => exec_delay h ?_, fun hi => exec_sound h ?_⟩
  · rw [← Bool.not_eq_true, accessMatrix_delay_iff]
    exact not_exists.2 hi
  · rw [← Bool.not_eq_true, accessMatrix_sound_iff]
    exact not_exists.2 hi

/-! ### The stack is not read (R21) -/

/-- Replace the stack of the next state, if there is one. -/
def outcomeSetStack (stk : Vector Word 16) (sp : Fin 17) :
    Host.Outcome State Fault Refusal → Host.Outcome State Fault Refusal
  | .next t => .next (t.setStack stk sp)
  | .fault r => .fault r
  | .refused r => .refused r

/-- A bounds check before an operation that does the same under any stack. -/
theorem boundsCheck_setStack (beyond : Bool) (s : State) (c : Cause) (w : Word) (stk : Vector Word 16) (sp : Fin 17)
    {t t' : State} (h : t' = t.setStack stk sp) :
    (if beyond then raiseFault (s.setStack stk sp) c w else .next t') =
      outcomeSetStack stk sp (if beyond then raiseFault s c w else .next t) := by
  subst h
  cases beyond <;> rfl

theorem shiftI_eq_setStack {t t' : State} {stk : Vector Word 16} {sp : Fin 17} (k : Nat)
    (h : t' = t.setStack stk sp) : t'.shiftI k = (t.shiftI k).setStack stk sp := by
  rw [h, State.shiftI_setStack]

theorem execLdVxK_setStack (x : Reg) (s : State) (stk : Vector Word 16) (sp : Fin 17) :
    execLdVxK x (s.setStack stk sp) = outcomeSetStack stk sp (execLdVxK x s) := by
  unfold execLdVxK
  simp only [State.advance_KEYS, State.setStack_KEYS]
  cases lowestKey s.KEYS <;> rfl

/-- With another stack in its place every instruction but 2nnn and 00EE does the same to everything else. -/
theorem exec_setStack {i : Instr} (hcall : ∀ nnn, i ≠ .call nnn) (hret : i ≠ .ret) (s : State)
    (stk : Vector Word 16) (sp : Fin 17) :
    exec i (s.setStack stk sp) = outcomeSetStack stk sp (exec i s) := by
  cases i with
  | ret => exact absurd rfl hret
  | call nnn => exact absurd rfl (hcall nnn)
  | seImm x nn | sneImm x nn | seReg x y | sneReg x y | skp x | sknp x =>
    exact congrArg Host.Outcome.next (State.skipIf_setStack s.advance _ stk sp)
  | ldVxK x => exact execLdVxK_setStack x s stk sp
  | drw x y n => exact boundsCheck_setStack _ s _ _ stk sp rfl
  | ldB x => exact boundsCheck_setStack _ s _ _ stk sp (State.writeBytes_setStack s.advance _ _ stk sp)
  | storeRegs x =>
    exact boundsCheck_setStack _ s _ _ stk sp (shiftI_eq_setStack _ (State.writeBytes_setStack s.advance _ _ stk sp))
  | loadRegs x =>
    exact boundsCheck_setStack _ s _ _ stk sp (shiftI_eq_setStack _ (State.setRegsFrom_setStack s.advance _ _ stk sp))
  | cls | jp nnn | jpo nnn | ldImm x nn | addImm x nn | ldReg x y | orReg x y | andReg x y | xorReg x y | addReg x y
  | subReg x y | shr x y | subnReg x y | shl x y | rnd x nn | ldVxDT x | ldDTVx x | ldSTVx x | ldI nnn | addI x
  | ldF x => rfl

/-- Settles O26: no other row names the stack, and `exec` of any other instruction commutes with replacing it. -/
theorem stackIsReachedByCallAndReturnAlone : Obligations.StackIsReachedByCallAndReturnAlone := by
  intro i s t h hcall hret
  have hrow : (accessMatrix i s).stack = false := by
    rw [← Bool.not_eq_true, accessMatrix_stack_iff]
    exact not_or.2 ⟨hret, not_exists.2 hcall⟩
  obtain ⟨hSTK, hSP⟩ := exec_stack h hrow
  refine ⟨hSTK, hSP, fun stk sp => ?_⟩
  rw [exec_setStack hcall hret, h]
  rfl

/-! ### The flag (R14) -/

theorem flagByte_eq_zero_or_one (f : Bool) : flagByte f = 0 ∨ flagByte f = 1 := by
  cases f
  · exact .inl rfl
  · exact .inr rfl

/-- Dxyn within the bounds of memory writes the device's answer to VF last (40_display.md R81). -/
theorem exec_drw_of_inBounds {n : Nat} {s : State} (x y : Reg) (h : s.beyondMemory n = false) :
    exec (.drw x y n) s =
      let drawn := s.advance.dispDraw (s.getV x) (s.getV y) (s.readBytes s.I.toNat n) n
      .next (drawn.2.setV VF (flagByte drawn.1)) :=
  if_neg (Bool.eq_false_iff.1 h)

theorem getV_VF_of_exec_drw {x y : Reg} {n : Nat} {s t : State} (h : exec (.drw x y n) s = .next t)
    (ht : t.running) : ∃ f, t.getV 15 = flagByte f := by
  cases hb : s.beyondMemory n with
  | true =>
    rw [exec_of_beyondMemory (i := .drw x y n) hb] at h
    cases h
    exact absurd ht (s.latchFault_not_running .dataAddress s.pc _)
  | false =>
    rw [exec_drw_of_inBounds x y hb] at h
    cases h
    exact ⟨_, State.getV_setV_same _ _ _⟩

/-- Settles O32: each of the six ends with the write of a flag to VF, over its result when x = 15. -/
theorem flagWritersLeaveZeroOrOne : Obligations.FlagWritersLeaveZeroOrOne := by
  intro i s t _ h ht hi
  have hflag : ∃ f, t.getV 15 = flagByte f := by
    obtain ⟨x, y, hi⟩ := hi
    rcases hi with rfl | rfl | rfl | rfl | rfl | ⟨n, rfl⟩
    case inr.inr.inr.inr.inr => exact getV_VF_of_exec_drw h ht
    all_goals
      cases h
      exact ⟨_, getV_VF_setResultThenFlag _ _ _ _⟩
  obtain ⟨f, hf⟩ := hflag
  rw [hf]
  exact flagByte_eq_zero_or_one f

/-! ### The fault state and the keypad mask (R26, R29) -/

theorem instrTick_of_FAULT {s : State} {c : Cause} (h : s.FAULT = some c) : instrTick s = .next s := by
  unfold instrTick
  rw [h]
  rfl

/-- Settles O9: the instruction tick of a state whose latch is set is ignored. -/
theorem faultStateIgnoresInstructionTicks : Obligations.FaultStateIgnoresInstructionTicks := by
  intro s c hnext hfault
  calc step s = instrTick s.beginEvent := step_of_nextEvent hnext
    _ = .next s.beginEvent := instrTick_of_FAULT (s.beginEvent_FAULT.trans hfault)

/-- Settles O15: the event writes `KEYS` after the step's own bookkeeping. -/
theorem keyRefreshChangesOnlyTheMask : Obligations.KeyRefreshChangesOnlyTheMask := by
  intro s mask hnext
  exact step_of_nextEvent hnext

/-! ### The reset state (R34) -/

theorem State.reset_getV (r : Reg) : State.reset.getV r = 0 := by
  simp [State.getV, State.reset]

/-- Settles O21: every value but the registers' is read off the definition. -/
theorem resetStateHasTheSpecsValues : Obligations.ResetStateHasTheSpecsValues :=
  ⟨rfl, State.reset_getV, rfl, rfl, rfl, rfl, rfl, rfl⟩

/-- Settles O22: memory lists nothing, the surface is canonical whatever its free pixels are, and no fault is
latched. -/
theorem invariantHoldsAtReset : Obligations.InvariantHoldsAtReset where
  left :=
    { memory := ⟨.nil, nofun⟩
      display := Display.afterReset_wf _ _
      faultAddress := nofun
      faultCause := nofun }
  right := rfl

end Sys2Proof.Machine
end

section
/-! Every recognized word is the encoding of its instruction (spec/30_encoding.md R61, R66, R67), dispatch by dispatch:
so the opcode a fault latches is the word that was fetched (log 2). -/

namespace Sys2Proof

theorem encode_of_decodeZero {w : Word} {i : Instr} (h : decodeZero w = some i) : encode i = w := by
  unfold decodeZero at h
  split at h
  next hw => cases h; exact hw.symm
  next =>
    split at h
    next hw => cases h; exact hw.symm
    next => cases h

theorem encode_of_decodeEight {x y : Reg} {n : BitVec 4} {i : Instr} (h : decodeEight x y n = some i) :
    encode i = 0x8#4 ++ x ++ y ++ n := by
  unfold decodeEight at h
  split at h <;> cases h <;> rfl

theorem encode_of_decodeE {x : Reg} {nn : Byte} {i : Instr} (h : decodeE x nn = some i) :
    encode i = 0xE#4 ++ x ++ nn := by
  unfold decodeE at h
  split at h <;> cases h <;> rfl

theorem encode_of_decodeF {x : Reg} {nn : Byte} {i : Instr} (h : decodeF x nn = some i) :
    encode i = 0xF#4 ++ x ++ nn := by
  unfold decodeF at h
  split at h <;> cases h <;> rfl

/-- A word is made of its fields, so an instruction that holds its fields encodes to it. Case `h_k` is the arm of the
first nibble k - 1. -/
theorem encode_of_lookupWord {w : Word} {i : Instr} (h : lookupWord w = some i) : encode i = w := by
  have hnnn := word_eq_nnn w
  have hxnn := word_eq_xnn w
  have hxyn := word_eq_xyn w
  unfold lookupWord at h
  split at h
  case h_1 => exact encode_of_decodeZero h
  case h_2 hop | h_3 hop | h_11 hop | h_12 hop =>
    cases h
    rw [hop] at hnnn
    exact hnnn.symm
  case h_4 hop | h_5 hop | h_7 hop | h_8 hop | h_13 hop =>
    cases h
    rw [hop] at hxnn
    exact hxnn.symm
  case h_6 hop | h_10 hop =>
    split at h
    next hn =>
      cases h
      rw [hop, hn] at hxyn
      exact hxyn.symm
    next => cases h
  case h_9 hop =>
    rw [hop] at hxyn
    exact (encode_of_decodeEight h).trans hxyn.symm
  case h_14 hop =>
    cases h
    rw [hop] at hxyn
    rw [encode, BitVec.ofNat_toNat, BitVec.setWidth_eq]
    exact hxyn.symm
  case h_15 hop =>
    rw [hop] at hxnn
    exact (encode_of_decodeE h).trans hxnn.symm
  case h_16 hop =>
    rw [hop] at hxnn
    exact (encode_of_decodeF h).trans hxnn.symm
  case h_17 => cases h

/-- The opcode latched for a decoded instruction decodes to it again. -/
theorem decodeWord_encode_of_decodeWord {w : Word} {i : Instr} (h : decodeWord w = .ok i) :
    decodeWord (encode i) = .ok i := by
  rwa [encode_of_lookupWord ((decodeWord_eq_ok_iff w i).1 h)]

end Sys2Proof
end

section
/-! The statements of spec/20_memory.md: what an instruction does to memory as data (R40, R46, R48), the cause of each
fault (R131), the invariant over every event, the preload (R55, R56), and that a fetch sees a store (R53). -/

namespace Sys2Proof.Machine

/-! ### The shared operations: what each leaves alone, and a byte of a block just written -/

theorem State.skipIf_eq (s : State) (c : Bool) : s.skipIf c = { s with pc := (s.skipIf c).pc } := by
  cases c <;> rfl

@[simp] theorem State.skipIf_FAULT (s : State) (c : Bool) : (s.skipIf c).FAULT = s.FAULT := by
  rw [State.skipIf_eq]

@[simp] theorem State.skipIf_MEM (s : State) (c : Bool) : (s.skipIf c).MEM = s.MEM := by
  rw [State.skipIf_eq]

@[simp] theorem State.shiftI_FAULT (s : State) (k : Nat) : (s.shiftI k).FAULT = s.FAULT := by
  rw [State.shiftI_eq]

@[simp] theorem State.shiftI_MEM (s : State) (k : Nat) : (s.shiftI k).MEM = s.MEM := by
  rw [State.shiftI_eq]

@[simp] theorem State.writeBytes_FAULT (s : State) (a : Nat) (bs : List Byte) :
    (s.writeBytes a bs).FAULT = s.FAULT := by
  rw [State.writeBytes_eq]

@[simp] theorem State.setRegsFrom_FAULT (s : State) (k : Nat) (bs : List Byte) :
    (s.setRegsFrom k bs).FAULT = s.FAULT := by
  rw [State.setRegsFrom_eq]

@[simp] theorem State.setRegsFrom_MEM (s : State) (k : Nat) (bs : List Byte) :
    (s.setRegsFrom k bs).MEM = s.MEM := by
  rw [State.setRegsFrom_eq]

@[simp] theorem State.shiftI_pc (s : State) (k : Nat) : (s.shiftI k).pc = s.pc := by
  rw [State.shiftI_eq]

@[simp] theorem State.shiftI_memRead (s : State) (k a : Nat) : (s.shiftI k).memRead a = s.memRead a := by
  rw [State.shiftI_eq]
  rfl

@[simp] theorem State.writeBytes_pc (s : State) (a : Nat) (bs : List Byte) : (s.writeBytes a bs).pc = s.pc := by
  rw [State.writeBytes_eq]

@[simp] theorem State.resetCore_memRead (s : State) (a : Nat) : s.resetCore.memRead a = s.memRead a := rfl

/-- A byte of a block just written. -/
theorem State.memRead_writeBytes_add (s : State) (a : Nat) {k : Nat} {bs : List Byte} (h : k < bs.length) :
    (s.writeBytes a bs).memRead (a + k) = bs[k] := by
  simp [State.memRead_writeBytes, h]

/-! ### The cause of a fault, and memory in canonical form -/

/-- The condition under which instruction `i` raises the cause (60_exceptions.md R131); no instruction raises a fetch
fault. -/
def Cause.RaisedBy (c : Cause) (i : Instr) (s : State) : Prop :=
  match c with
  | .stackOverflow => s.SP.val = 16 ∧ ∃ nnn, i = .call nnn
  | .stackUnderflow => s.SP.val = 0 ∧ i = .ret
  | .dataAddress => s.beyondMemory (bytesAtI i) = true
  | .fetchAddress => False

/-- The two outcomes an instruction may have, by the latch and the list of memory: it latches a fault it raises and does
nothing else, or it leaves the latch alone and memory canonical. -/
def LatchesItsCauseOrKeepsWf (i : Instr) (s : State) (o : Host.Outcome State Fault Refusal) : Prop :=
  (∃ c : Cause, c.RaisedBy i s ∧ o = .next (s.latchFault c s.pc (encode i))) ∨
    ∃ t, o = .next t ∧ t.FAULT = s.FAULT ∧ (Memory.wf s.MEM → Memory.wf t.MEM)

namespace LatchesItsCauseOrKeepsWf

theorem of_raiseFault {i : Instr} {s : State} {c : Cause} (h : c.RaisedBy i s) :
    LatchesItsCauseOrKeepsWf i s (raiseFault s c (encode i)) := .inl ⟨c, h, rfl⟩

theorem of_kept {i : Instr} {s t : State} (hfault : t.FAULT = s.FAULT) (hmem : t.MEM = s.MEM) :
    LatchesItsCauseOrKeepsWf i s (.next t) := .inr ⟨t, rfl, hfault, fun hwf => hmem ▸ hwf⟩

/-- A memory instruction: the fault of its bounds check (20_memory.md R48), or what it does within bounds. -/
theorem of_boundsCheck {i : Instr} {s t : State}
    (h : s.beyondMemory (bytesAtI i) = false → LatchesItsCauseOrKeepsWf i s (.next t)) :
    LatchesItsCauseOrKeepsWf i s
      (if s.beyondMemory (bytesAtI i) then raiseFault s .dataAddress (encode i) else .next t) := by
  cases hb : s.beyondMemory (bytesAtI i) with
  | true => exact of_raiseFault (c := .dataAddress) hb
  | false => exact h hb

/-- A block stored at `I` within bounds, whatever else the instruction does. -/
theorem of_stored {i : Instr} {s t : State} {bs : List Byte} (hb : s.beyondMemory bs.length = false)
    (hbs : 1 ≤ bs.length) (hfault : t.FAULT = s.FAULT)
    (hmem : t.MEM = (s.advance.writeBytes s.I.toNat bs).MEM) : LatchesItsCauseOrKeepsWf i s (.next t) := by
  have hbound : s.I.toNat + bs.length ≤ Config.memSize := by
    rw [← Bool.not_eq_true, State.beyondMemory_iff] at hb
    simp only [Config.memSize]
    omega
  refine .inr ⟨t, rfl, hfault, fun hwf => ?_⟩
  rw [hmem]
  exact State.writeBytes_wf hwf hbound

end LatchesItsCauseOrKeepsWf

open LatchesItsCauseOrKeepsWf

theorem execCall_latchesItsCauseOrKeepsWf (nnn : BitVec 12) (s : State) :
    LatchesItsCauseOrKeepsWf (.call nnn) s (execCall nnn s) := by
  unfold execCall
  cases hp : s.advance.push s.advance.pc with
  | none => exact of_raiseFault (c := .stackOverflow) ⟨(s.advance.push_eq_none_iff _).1 hp, nnn, rfl⟩
  | some t =>
    obtain ⟨_, rfl⟩ := (State.push_eq_some_iff _ _ _).1 hp
    exact of_kept rfl rfl

theorem execRet_latchesItsCauseOrKeepsWf (s : State) : LatchesItsCauseOrKeepsWf .ret s (execRet s) := by
  unfold execRet
  cases hp : s.advance.pop with
  | none => exact of_raiseFault (c := .stackUnderflow) ⟨s.advance.pop_eq_none_iff.1 hp, rfl⟩
  | some p =>
    obtain ⟨target, t⟩ := p
    obtain ⟨_, _, rfl⟩ := (State.pop_eq_some_iff _ _ _).1 hp
    exact of_kept rfl rfl

theorem execLdVxK_latchesItsCauseOrKeepsWf (x : Reg) (s : State) :
    LatchesItsCauseOrKeepsWf (.ldVxK x) s (execLdVxK x s) := by
  unfold execLdVxK
  dsimp only
  cases lowestKey s.advance.KEYS with
  | none => exact of_kept rfl rfl
  | some k => exact of_kept rfl rfl

/-- An instruction faults on its own row's condition alone (60_exceptions.md R131), and only Fx33 and Fx55, whose stores
the bounds check holds in the address space, change the list of memory. -/
theorem exec_latchesItsCauseOrKeepsWf (i : Instr) (s : State) : LatchesItsCauseOrKeepsWf i s (exec i s) := by
  cases i with
  | call nnn => exact execCall_latchesItsCauseOrKeepsWf nnn s
  | ret => exact execRet_latchesItsCauseOrKeepsWf s
  | ldVxK x => exact execLdVxK_latchesItsCauseOrKeepsWf x s
  | seImm x nn | sneImm x nn | seReg x y | sneReg x y | skp x | sknp x =>
    exact of_kept (State.skipIf_FAULT _ _) (State.skipIf_MEM _ _)
  | drw x y n => exact of_boundsCheck fun _ => of_kept rfl rfl
  | loadRegs x => exact of_boundsCheck fun _ => of_kept (by simp) (by simp)
  | ldB x =>
    have hlen : (decimalDigits (s.getV x)).length = 3 := rfl
    exact of_boundsCheck fun hb => of_stored (bs := decimalDigits (s.getV x)) hb (by omega) rfl rfl
  | storeRegs x =>
    have hlen := s.length_regsUpTo x
    exact of_boundsCheck fun hb => of_stored (bs := s.regsUpTo x) (hlen ▸ hb) (by omega) (by simp) (by simp)
  | cls | jp nnn | jpo nnn | ldImm x nn | addImm x nn | ldReg x y | orReg x y | andReg x y | xorReg x y | addReg x y
  | subReg x y | shr x y | subnReg x y | shl x y | rnd x nn | ldVxDT x | ldDTVx x | ldSTVx x | ldI nnn | addI x
  | ldF x => exact of_kept rfl rfl

/-! ### The display in canonical form -/

theorem accessMatrix_device_iff (i : Instr) (s : State) :
    (accessMatrix i s).device = true ↔ i = .cls ∨ ∃ x y n, i = .drw x y n := by
  cases i <;> simp [accessMatrix]

theorem Display.clear_wf (d : Display) : d.clear.wf := ⟨.nil, nofun⟩

/-- An instruction whose row names no device leaves the surface alone; 00E0 clears it and Dxyn draws on it. -/
theorem exec_display_wf {i : Instr} {s t : State} (hwf : s.display.wf) (h : exec i s = .next t) : t.display.wf := by
  obtain ⟨c, rfl⟩ | hframe := exec_cases h
  · exact hwf
  · cases hdev : (accessMatrix i s).device with
    | false => rwa [(hframe.device hdev).1]
    | true =>
      obtain rfl | ⟨x, y, n, rfl⟩ := (accessMatrix_device_iff i s).1 hdev
      · cases h
        exact s.display.clear_wf
      · cases hb : s.beyondMemory n with
        | true =>
          rw [exec_of_beyondMemory (i := .drw x y n) hb] at h
          cases h
          exact hwf
        | false =>
          rw [exec_drw_of_inBounds x y hb] at h
          cases h
          exact Display.draw_wf hwf _ _ _ _

/-! ### The invariant, event by event -/

/-- In a running core the invariant is the canonical forms. -/
theorem State.Inv.of_running {s : State} (hmem : Memory.wf s.MEM) (hdisp : s.display.wf) (hrun : s.running) :
    s.Inv where
  memory := hmem
  display := hdisp
  faultAddress _ hc := nomatch hrun.symm.trans hc
  faultCause _ hc := nomatch hrun.symm.trans hc

/-- A fault latched at `pc` keeps the invariant when its cause explains it. -/
theorem State.Inv.latchFault {s : State} {c : Cause} {w : Word} (h : s.Inv)
    (hc : c.explains (s.latchFault c s.pc w)) : (s.latchFault c s.pc w).Inv where
  memory := h.memory
  display := h.display
  faultAddress _ _ := rfl
  faultCause c' hc' := by
    cases hc'
    exact hc

/-- The condition an instruction raises a cause on is the one the cause is explained by, once the latched opcode
decodes to that instruction (60_exceptions.md R131, R133). -/
theorem Cause.RaisedBy.explains {c : Cause} {i : Instr} {s : State} (a : Word)
    (hi : decodeWord (encode i) = .ok i) (h : c.RaisedBy i s) : c.explains (s.latchFault c a (encode i)) := by
  cases c with
  | stackOverflow =>
    obtain ⟨hsp, nnn, rfl⟩ := h
    exact ⟨hsp, nnn, rfl⟩
  | stackUnderflow =>
    obtain ⟨hsp, rfl⟩ := h
    exact ⟨hsp, rfl⟩
  | dataAddress =>
    obtain ⟨hbytes, hbeyond⟩ := (s.beyondMemory_iff _).1 h
    exact ⟨i, hi, hbytes, hbeyond⟩
  | fetchAddress => exact h.elim

theorem exec_Inv {i : Instr} {s t : State} (hs : s.Inv) (hrun : s.running) (hi : decodeWord (encode i) = .ok i)
    (h : exec i s = .next t) : t.Inv := by
  have hdisp := exec_display_wf hs.display h
  obtain ⟨c, hc, e⟩ | ⟨u, e, hfault, hmem⟩ := exec_latchesItsCauseOrKeepsWf i s <;> rw [e] at h <;> cases h
  · exact hs.latchFault (hc.explains s.pc hi)
  · exact .of_running (hmem hs.memory) hdisp (hfault.trans hrun)

theorem instrTick_Inv {s t : State} (hs : s.Inv) (h : instrTick s = .next t) : t.Inv := by
  obtain ⟨_, e⟩ | ⟨_, hpc, e⟩ | ⟨w, i, hrun, _, hw, e⟩ | ⟨w, hrun, _, _, e⟩ := instrTick_cases s <;> rw [e] at h
  case inr.inr.inl => exact exec_Inv hs hrun (decodeWord_encode_of_decodeWord hw) h
  all_goals cases h
  · exact hs
  · exact hs.latchFault ⟨rfl, hpc⟩
  · exact .of_running hs.memory hs.display hrun

/-- A reset leaves no fault, and a canonical surface whatever its free pixels are (60_exceptions.md R149). -/
theorem State.resetCore_Inv {s : State} (hmem : Memory.wf s.MEM) : s.resetCore.Inv :=
  .of_running hmem (Display.afterReset_wf _ _) rfl

/-! ### The preload -/

/-- A preload whose image fits (20_memory.md R56). -/
theorem preload_of_le (s : State) (font : Vector Byte 80) {image : List Byte} (h : image.length ≤ 3584) :
    preload s font image =
      .next ((s.freshMemory.writeBytes Config.fontBase font.toList).writeBytes Config.romBase image).resetCore :=
  if_neg (Nat.not_lt.2 h)

/-- A preload whose image does not fit (20_memory.md R56). -/
theorem preload_of_gt (s : State) (font : Vector Byte 80) {image : List Byte} (h : image.length > 3584) :
    preload s font image = .fault (.imageTooLong image.length) :=
  if_pos h

/-- The preloaded memory is canonical: the font and an image that fits lie in the address space. -/
theorem preloaded_memory_wf (s : State) (font : Vector Byte 80) {image : List Byte} (h : image.length ≤ 3584) :
    Memory.wf ((s.freshMemory.writeBytes Config.fontBase font.toList).writeBytes Config.romBase image).MEM := by
  have hempty : Memory.wf s.freshMemory.MEM := ⟨.nil, nofun⟩
  have hfont : Config.fontBase + font.toList.length ≤ Config.memSize := by simp [Config.fontBase, Config.memSize]
  have himage : Config.romBase + image.length ≤ Config.memSize := by
    simp only [Config.romBase, Config.memSize]
    omega
  exact State.writeBytes_wf (State.writeBytes_wf hempty hfont) himage

theorem preload_Inv {s t : State} {font : Vector Byte 80} {image : List Byte} (h : preload s font image = .next t) :
    t.Inv := by
  by_cases hlen : image.length ≤ 3584
  · rw [preload_of_le s font hlen] at h
    cases h
    exact State.resetCore_Inv (preloaded_memory_wf s font hlen)
  · rw [preload_of_gt s font (Nat.lt_of_not_le hlen)] at h
    cases h

theorem State.beginEvent_Inv {s : State} (h : s.Inv) : s.beginEvent.Inv :=
  ⟨h.memory, h.display, h.faultAddress, h.faultCause⟩

theorem deliver_Inv {e : HostEvent} {s t : State} (hs : s.Inv) (h : deliver e s = .next t) : t.Inv := by
  cases e with
  | reset => cases h; exact State.resetCore_Inv hs.memory
  | preload font image => exact preload_Inv h
  | keys mask => cases h; exact ⟨hs.memory, hs.display, hs.faultAddress, hs.faultCause⟩
  | timerTick => cases h; exact ⟨hs.memory, hs.display, hs.faultAddress, hs.faultCause⟩
  | instrTick => exact instrTick_Inv hs h

/-- Settles O23: each event keeps the invariant of the state the step's own bookkeeping leaves. -/
theorem everyStepKeepsTheInvariant : Obligations.EveryStepKeepsTheInvariant := by
  intro s t hs h
  exact deliver_Inv (State.beginEvent_Inv hs) h

/-! ### The preloaded image (R56) -/

/-- Settles O16: the image is written last and the reset keeps memory. -/
theorem preloadPlacesTheImageOrNeverStarts : Obligations.PreloadPlacesTheImageOrNeverStarts := by
  intro s font image hnext
  rw [step_of_nextEvent hnext]
  refine ⟨fun hle => ⟨_, preload_of_le _ font hle, fun k hk => ?_⟩, fun hgt => preload_of_gt _ font hgt⟩
  rw [State.resetCore_memRead]
  exact State.memRead_writeBytes_add _ Config.romBase hk

/-! ### What stops the machine (R56) -/

theorem exec_answers_next (i : Instr) (s : State) : ∃ t, exec i s = .next t := by
  obtain ⟨c, h⟩ | ⟨t, h, _⟩ := exec_faultsOrKeepsFrame i s
  · exact ⟨_, h⟩
  · exact ⟨t, h⟩

theorem instrTick_answers_next (s : State) : ∃ t, instrTick s = .next t := by
  obtain ⟨_, e⟩ | ⟨_, _, e⟩ | ⟨_, i, _, _, _, e⟩ | ⟨_, _, _, _, e⟩ := instrTick_cases s <;> rw [e]
  case inr.inr.inl => exact exec_answers_next i s
  all_goals exact ⟨_, rfl⟩

/-- Settles O19: of the events only the preload can stop the machine, and only on the length of its image. -/
theorem onlyAnOversizedImageStopsTheMachine : Obligations.OnlyAnOversizedImageStopsTheMachine := by
  intro s
  cases hnext : s.nextEvent with
  | preload font image =>
    rw [step_of_nextEvent hnext]
    by_cases hlen : image.length ≤ 3584
    · exact .inl ⟨_, preload_of_le _ font hlen⟩
    · have hgt := Nat.lt_of_not_le hlen
      exact .inr ⟨font, image, rfl, hgt, preload_of_gt _ font hgt⟩
  | instrTick =>
    rw [step_of_nextEvent hnext]
    exact .inl (instrTick_answers_next s.beginEvent)
  | reset | keys mask | timerTick => exact .inl ⟨_, step_of_nextEvent hnext⟩

/-! ### Memory as data (R40) -/

/-- In a canonical memory the entries are what the lookup finds. -/
theorem Memory.mem_iff_lookup {m : List Host.Cell} (hm : Memory.wf m) (a : Nat) (b : Byte) :
    (a, b) ∈ m ↔ Memory.lookup m a = some b := by
  obtain ⟨hrise, -⟩ := hm
  induction m with
  | nil => simp [Memory.lookup]
  | cons c m ih =>
    obtain ⟨k, c⟩ := c
    obtain ⟨hhead, htail⟩ := List.pairwise_cons.1 hrise
    simp only [Memory.lookup, List.mem_cons, Prod.mk.injEq]
    split
    next hk =>
      subst hk
      have hnot : (k, b) ∉ m := fun hmem => Nat.lt_irrefl k (hhead _ hmem)
      simp [hnot, eq_comm]
    next hk => simp [ih htail, Ne.symm hk]

/-- Settles O24: rising lists with the same entries are the same list. -/
theorem canonicalMemoriesThatListTheSameBytesAreEqual :
    Obligations.CanonicalMemoriesThatListTheSameBytesAreEqual := by
  intro m n hm hn h
  have hentries : ∀ c, c ∈ m ↔ c ∈ n := by
    rintro ⟨a, b⟩
    rw [Memory.mem_iff_lookup hm, Memory.mem_iff_lookup hn, h]
  have irrefl : Std.Irrefl (fun c d : Host.Cell => c.1 < d.1) := ⟨fun c => Nat.lt_irrefl c.1⟩
  have antisymm : Std.Antisymm (fun c d : Host.Cell => c.1 < d.1) :=
    ⟨fun c d hcd hdc => absurd hcd (Nat.lt_asymm hdc)⟩
  exact hm.1.eq_of_mem_iff hn.1 hentries

/-! ### Which instructions write memory (R46), and when a store is seen (R53) -/

theorem accessMatrix_memCount_eq_zero_iff (i : Instr) (s : State) :
    (accessMatrix i s).memCount = 0 ↔ (∀ x, i ≠ .ldB x) ∧ ∀ x, i ≠ .storeRegs x := by
  cases i <;> simp [accessMatrix]

theorem exec_memRead {i : Instr} {s t : State} (h : exec i s = .next t) (hrow : (accessMatrix i s).memCount = 0)
    (a : Nat) : t.memRead a = s.memRead a := by
  obtain ⟨c, rfl⟩ | hframe := exec_cases h
  · rfl
  · exact hframe.memory a (by omega)

/-- Settles O27: no other row of the access matrix names a byte of memory. -/
theorem memoryIsWrittenByTwoInstructionsAlone : Obligations.MemoryIsWrittenByTwoInstructionsAlone := by
  intro i s t h hldB hstore
  exact exec_memRead h ((accessMatrix_memCount_eq_zero_iff i s).2 ⟨hldB, hstore⟩)

/-- Fx55 within the bounds of memory (44_index_memory.md R118). -/
theorem exec_storeRegs_of_inBounds {x : Reg} {s : State} (h : s.I.toNat + x.toNat ≤ 4095) :
    exec (.storeRegs x) s =
      .next ((s.advance.writeBytes s.I.toNat (s.regsUpTo x)).shiftI (x.toNat + 1)) := by
  refine if_neg ?_
  rw [State.beyondMemory_iff]
  omega

section
variable {x : Reg} {s t : State} (hbound : s.I.toNat + x.toNat ≤ 4095) (h : exec (.storeRegs x) s = .next t)
include hbound h

theorem exec_storeRegs_pc : t.pc = s.pc + 2 := by
  rw [exec_storeRegs_of_inBounds hbound] at h
  cases h
  simp

theorem exec_storeRegs_memRead {k : Nat} (hk : k ≤ x.toNat) :
    t.memRead (s.I.toNat + k) = s.getV (BitVec.ofNat 4 k) := by
  rw [exec_storeRegs_of_inBounds hbound] at h
  cases h
  have hlen : k < (s.regsUpTo x).length := by
    rw [State.length_regsUpTo]
    omega
  rw [State.shiftI_memRead, State.memRead_writeBytes_add _ _ hlen, State.getElem_regsUpTo]

end

/-- Settles O56: the fetch at `pc` = I reads bytes 0 and 1 of the block just stored. -/
theorem storeIsSeenByTheNextFetch : Obligations.StoreIsSeenByTheNextFetch := by
  intro x s hI hbound hx
  obtain ⟨t, h⟩ := exec_answers_next (.storeRegs x) s
  have hpc : t.pc = s.I := (exec_storeRegs_pc hbound h).trans hI.symm
  have hhigh : t.memRead s.I.toNat = s.getV 0 := exec_storeRegs_memRead hbound h (Nat.zero_le _)
  have hlow : t.memRead (s.I.toNat + 1) = s.getV 1 := exec_storeRegs_memRead hbound h hx
  refine ⟨t, h, hpc, ?_⟩
  rw [fetchWord_in_range (by rw [hpc]; omega), hpc, hhigh, hlow]

end Sys2Proof.Machine
end

section
/-! The statements of spec/30_encoding.md: the words (R60 to R69) and the tick that fetches them (R62, R63, R68). -/

namespace Sys2Proof

/-! ### The dispatches on words laid out by their fields (R67) -/

theorem lookupWord_eight (x y n : BitVec 4) : lookupWord (0x8#4 ++ x ++ y ++ n) = decodeEight x y n := by
  obtain ⟨hop, hx, hy, hn⟩ := fields_xyn 0x8#4 x y n
  simp only [lookupWord, hop, hx, hy, hn]

theorem lookupWord_drw (x y n : BitVec 4) : lookupWord (0xD#4 ++ x ++ y ++ n) = some (.drw x y n.toNat) := by
  obtain ⟨hop, hx, hy, hn⟩ := fields_xyn 0xD#4 x y n
  simp only [lookupWord, hop, hx, hy, hn]

theorem lookupWord_E (x : Reg) (nn : Byte) : lookupWord (0xE#4 ++ x ++ nn) = decodeE x nn := by
  obtain ⟨hop, hx, hnn⟩ := fields_xnn 0xE#4 x nn
  simp only [lookupWord, hop, hx, hnn]

theorem lookupWord_F (x : Reg) (nn : Byte) : lookupWord (0xF#4 ++ x ++ nn) = decodeF x nn := by
  obtain ⟨hop, hx, hnn⟩ := fields_xnn 0xF#4 x nn
  simp only [lookupWord, hop, hx, hnn]

/-! ### Encode, then decode (O2) -/

/-- A dispatch reads each operand back from its field; the row count of Dxyn alone has to fit its field. -/
theorem lookupWord_encode {i : Instr} (hi : i.wellFormed = true) : lookupWord (encode i) = some i := by
  cases i
  case cls | ret => rfl
  case jp nnn | call nnn | ldI nnn | jpo nnn => simp only [encode, lookupWord, fields_nnn]
  case seImm x nn | sneImm x nn | ldImm x nn | addImm x nn | rnd x nn => simp only [encode, lookupWord, fields_xnn]
  case seReg x y | sneReg x y => simp only [encode, lookupWord, fields_xyn, if_true]
  case drw x y n =>
    have hn : n < 16 := of_decide_eq_true hi
    rw [encode, lookupWord_drw, BitVec.toNat_ofNat, Nat.mod_eq_of_lt hn]
  case skp x | sknp x => exact lookupWord_E x _
  case ldReg x y | orReg x y | andReg x y | xorReg x y | addReg x y | subReg x y | shr x y | subnReg x y | shl x y =>
    exact lookupWord_eight x y _
  all_goals exact lookupWord_F _ _

/-- Settles O2: the two bytes of the word are the word, whose lookup is the instruction. -/
theorem decodeOfEncodeGivesTheInstructionBack : Obligations.DecodeOfEncodeGivesTheInstructionBack := by
  intro i rest hi
  rw [decode_wordBytes, (decodeWord_eq_ok_iff (encode i) i).2 (lookupWord_encode hi)]

/-! ### Decode, then encode (O3) -/

/-- Only Dxyn has an operand that its type does not bound, and its word holds four bits of it. -/
theorem wellFormed_of_lookupWord {w : Word} {i : Instr} (h : lookupWord w = some i) : i.wellFormed = true := by
  cases i with
  | drw x y n =>
    rw [← encode_of_lookupWord h, encode, lookupWord_drw] at h
    have hn : (BitVec.ofNat 4 n).toNat = n := (Instr.drw.inj (Option.some.inj h)).2.2
    exact decide_eq_true (hn ▸ (BitVec.ofNat 4 n).isLt)
  | _ => rfl

/-- Settles O3: every recognized word is the encoding of its instruction, and its field bounds the row count. -/
theorem encodeOfDecodeGivesTheWordBack : Obligations.EncodeOfDecodeGivesTheWordBack := by
  intro w i h
  rw [decodeWord_eq_ok_iff] at h
  exact ⟨wellFormed_of_lookupWord h, encode_of_lookupWord h⟩

/-! ### The unrecognized words (R69, O4) -/

theorem decodeWord_eq_error_iff (w : Word) (r : Reject) :
    decodeWord w = .error r ↔ lookupWord w = none ∧ r = .unrecognized w := by
  unfold decodeWord
  cases lookupWord w <;> simp [eq_comm]

theorem opField_eq_iff (w : Word) (k : BitVec 4) : opField w = k ↔ w.toNat / 4096 = k.toNat := by
  rw [← BitVec.toNat_inj, opField, BitVec.extractLsb'_toNat, Nat.shiftRight_eq_div_pow]
  omega

theorem toNat_nField (w : Word) : (nField w).toNat = w.toNat % 16 := by
  rw [nField, BitVec.extractLsb'_toNat, Nat.shiftRight_zero]

theorem nField_eq_iff (w : Word) (k : BitVec 4) : nField w = k ↔ w.toNat % 16 = k.toNat := by
  rw [← BitVec.toNat_inj, toNat_nField]

theorem toNat_nnField (w : Word) : (nnField w).toNat = w.toNat % 256 := by
  rw [nnField, BitVec.extractLsb'_toNat, Nat.shiftRight_zero]

theorem decodeZero_eq_none_iff (w : Word) : decodeZero w = none ↔ w.toNat ≠ 0x00E0 ∧ w.toNat ≠ 0x00EE := by
  unfold decodeZero
  split
  next hcls => simp [hcls]
  next hcls =>
    split
    next hret => simp [hret]
    next hret =>
      exact iff_of_true rfl ⟨fun h => hcls (BitVec.eq_of_toNat_eq h), fun h => hret (BitVec.eq_of_toNat_eq h)⟩

theorem decodeEight_eq_none_iff (x y : Reg) (n : BitVec 4) :
    decodeEight x y n = none ↔ n.toNat ∈ [8, 9, 0xA, 0xB, 0xC, 0xD, 0xF] := by
  obtain ⟨n, hn⟩ := n
  interval_cases n <;> simp [decodeEight]

theorem decodeE_eq_none_iff (x : Reg) (nn : Byte) : decodeE x nn = none ↔ nn.toNat ∉ [0x9E, 0xA1] := by
  unfold decodeE
  split <;> simp_all [← BitVec.toNat_inj]

theorem decodeF_eq_none_iff (x : Reg) (nn : Byte) :
    decodeF x nn = none ↔ nn.toNat ∉ [0x07, 0x0A, 0x15, 0x18, 0x1E, 0x29, 0x33, 0x55, 0x65] := by
  unfold decodeF
  split <;> simp_all [← BitVec.toNat_inj]

/-- The second dispatches that can fail, under the nibbles that reach them. -/
theorem lookupWord_eq_none_iff (w : Word) : lookupWord w = none ↔
    (opField w = 0x0#4 ∧ decodeZero w = none) ∨ (opField w = 0x5#4 ∧ nField w ≠ 0x0#4) ∨
    (opField w = 0x8#4 ∧ decodeEight (xField w) (yField w) (nField w) = none) ∨
    (opField w = 0x9#4 ∧ nField w ≠ 0x0#4) ∨
    (opField w = 0xE#4 ∧ decodeE (xField w) (nnField w) = none) ∨
    (opField w = 0xF#4 ∧ decodeF (xField w) (nnField w) = none) := by
  unfold lookupWord
  generalize opField w = op
  obtain ⟨op, hop⟩ := op
  interval_cases op <;> simp

/-- Settles O4: the fields are quotients and remainders of the word. -/
theorem unrecognizedWordsAreThoseListed : Obligations.UnrecognizedWordsAreThoseListed := by
  intro w
  rw [decodeWord_eq_error_iff, lookupWord_eq_none_iff, decodeZero_eq_none_iff, decodeEight_eq_none_iff,
    decodeE_eq_none_iff, decodeF_eq_none_iff, toNat_nField, toNat_nnField]
  simp only [opField_eq_iff, nField_eq_iff, and_true, ne_eq]
  rfl

/-! ### The rows of the opcode map (R66, O5) -/

/-- The mask and match columns of an instruction's row. -/
def opcodeRow (i : Instr) : Word × Word := (rowMask i, rowMatch i)

/-- One instruction of each row, in the order of the rows. -/
def rowRepresentatives : List Instr :=
  [.cls, .ret, .jp 0, .call 0, .seImm 0 0, .sneImm 0 0, .seReg 0 0, .ldImm 0 0, .addImm 0 0, .ldReg 0 0, .orReg 0 0,
   .andReg 0 0, .xorReg 0 0, .addReg 0 0, .subReg 0 0, .shr 0 0, .subnReg 0 0, .shl 0 0, .sneReg 0 0, .ldI 0, .jpo 0,
   .rnd 0 0, .drw 0 0 0, .skp 0, .sknp 0, .ldVxDT 0, .ldVxK 0, .ldDTVx 0, .ldSTVx 0, .addI 0, .ldF 0, .ldB 0,
   .storeRegs 0, .loadRegs 0]

theorem opcodeRows_eq_map : opcodeRows = rowRepresentatives.map opcodeRow := rfl

theorem opcodeRow_mem_opcodeRows (i : Instr) : opcodeRow i ∈ opcodeRows := by
  cases i <;> simp [opcodeRow, rowMask, rowMatch, opcodeRows]

/-- The word of an instruction matches its row. -/
theorem encode_and_rowMask (i : Instr) : encode i &&& rowMask i = rowMatch i := by
  open Laws.RowMatch in
  cases i
  case cls | ret => rfl
  case jp | call | ldI | jpo => exact mask_nnn _ _
  case seImm | sneImm | ldImm | addImm | rnd => exact mask_xnn _ _ _
  case drw => exact mask_xyn _ _ _ _
  case seReg | sneReg | ldReg | orReg | andReg | xorReg | addReg | subReg | shr | subnReg | shl =>
    exact mask_xy _ _ _ _
  all_goals exact mask_x _ _ _

/-- Two different rows differ in a bit that both masks fix. -/
theorem opcodeRows_pairwise_differ : opcodeRows.Pairwise (fun a b => b.2 &&& a.1 ≠ a.2 &&& b.1) := by
  decide

/-- A word matches at most one row. -/
theorem eq_of_matches {w : Word} {a b : Word × Word} (ha : a ∈ opcodeRows) (hb : b ∈ opcodeRows)
    (hwa : w &&& a.1 = a.2) (hwb : w &&& b.1 = b.2) : b = a := by
  have hsymm : Std.Symm (fun a b : Word × Word => b.2 &&& a.1 ≠ a.2 &&& b.1) := ⟨fun _ _ => Ne.symm⟩
  by_contra hne
  refine opcodeRows_pairwise_differ.forall ha hb (Ne.symm hne) ?_
  rw [← hwa, ← hwb, BitVec.and_assoc, BitVec.and_assoc, BitVec.and_comm b.1]

theorem opField_and {w m : Word} (hm : opField m = 0xF#4) : opField (w &&& m) = opField w := by
  rw [opField, BitVec.extractLsb'_and]
  exact (congrArg (opField w &&& ·) hm).trans BitVec.and_allOnes

theorem nField_and {w m : Word} (hm : nField m = 0xF#4) : nField (w &&& m) = nField w := by
  rw [nField, BitVec.extractLsb'_and]
  exact (congrArg (nField w &&& ·) hm).trans BitVec.and_allOnes

theorem nnField_and {w m : Word} (hm : nnField m = 0xFF#8) : nnField (w &&& m) = nnField w := by
  rw [nnField, BitVec.extractLsb'_and]
  exact (congrArg (nnField w &&& ·) hm).trans BitVec.and_allOnes

theorem opField_rowMask (i : Instr) : opField (rowMask i) = 0xF#4 := by
  cases i
  all_goals
    rw [rowMask]
    rfl

/-- A word that matches a row is recognized: the fields that the row fixes select an arm of the dispatch. -/
theorem isSome_lookupWord_of_row {w : Word} {i : Instr} (h : w &&& rowMask i = rowMatch i) :
    (lookupWord w).isSome := by
  have hop : opField w = opField (rowMatch i) := (opField_and (opField_rowMask i)).symm.trans (congrArg opField h)
  cases i
  case cls | ret =>
    obtain rfl := BitVec.and_allOnes.symm.trans h
    rfl
  case jp | call | seImm | sneImm | ldImm | addImm | ldI | jpo | rnd | drw =>
    rw [lookupWord, hop]
    simp [rowMatch, opField]
  case seReg | sneReg | ldReg | orReg | andReg | xorReg | addReg | subReg | shr | subnReg | shl =>
    have hn := (nField_and (m := 0xF00F#16) rfl).symm.trans (congrArg nField h)
    rw [lookupWord, hop, hn]
    simp [rowMatch, opField, nField, decodeEight]
  all_goals
    have hnn := (nnField_and (m := 0xF0FF#16) rfl).symm.trans (congrArg nnField h)
    rw [lookupWord, hop, hnn]
    simp [rowMatch, opField, nnField, decodeE, decodeF]

/-- Settles O5: a recognized word is the encoding of its instruction, which lies in the instruction's row. -/
theorem wordSelectsTheOneRowItMatches : Obligations.WordSelectsTheOneRowItMatches := by
  intro w
  cases hw : lookupWord w with
  | some i =>
    have hmatch : w &&& rowMask i = rowMatch i := encode_of_lookupWord hw ▸ encode_and_rowMask i
    exact .inl ⟨i, (decodeWord_eq_ok_iff w i).2 hw, hmatch, opcodeRow_mem_opcodeRows i,
      fun b hb hwb => eq_of_matches (opcodeRow_mem_opcodeRows i) hb hmatch hwb⟩
  | none =>
    refine .inr ⟨(decodeWord_eq_error_iff w _).2 ⟨hw, rfl⟩, ?_⟩
    rw [opcodeRows_eq_map, List.forall_mem_map]
    intro i _ hmatch
    have hsome := isSome_lookupWord_of_row hmatch
    rw [hw] at hsome
    cases hsome

/-- Settles O1: the decoder evaluated on the words. -/
theorem specWordsDecodeToTheirInstructions : Obligations.SpecWordsDecodeToTheirInstructions := by
  unfold Obligations.SpecWordsDecodeToTheirInstructions
  decide

end Sys2Proof

namespace Sys2Proof.Machine

/-! ### The tick by its fetch (R62, R63, R68) -/

@[simp] theorem State.beginEvent_fetchWord (s : State) : s.beginEvent.fetchWord = s.fetchWord := rfl

section
variable {s : State} (hrun : s.running)
include hrun

theorem instrTick_of_decodeWord_ok {w : Word} {i : Instr} (hw : s.fetchWord = some w) (hi : decodeWord w = .ok i) :
    instrTick s = exec i s := by
  simp [instrTick, hrun, hw, hi]

theorem instrTick_of_decodeWord_error {w : Word} {r : Reject} (hw : s.fetchWord = some w)
    (hr : decodeWord w = .error r) : instrTick s = .next (s.advance.diag s.pc w) := by
  simp [instrTick, hrun, hw, hr, unrecognizedTick]

theorem instrTick_of_fetchWord_none (hw : s.fetchWord = none) :
    instrTick s = .next (s.latchFault .fetchAddress s.pc 0) := by
  simp [instrTick, hrun, hw, raiseFault]

/-- The step of an instruction tick whose fetch finds an instruction. -/
theorem step_of_decodeWord_ok {w : Word} {i : Instr} (hnext : s.nextEvent = .instrTick) (hw : s.fetchWord = some w)
    (hi : decodeWord w = .ok i) : step s = exec i s.beginEvent := by
  rw [step_of_nextEvent hnext]
  exact instrTick_of_decodeWord_ok (s := s.beginEvent) hrun (s.beginEvent_fetchWord.trans hw) hi

end

theorem decode_two_bytes_eq_ok {s : State} {a : Nat} {i : Instr} (h : decode (s.readBytes a 2) = .ok (i, [])) :
    decodeWord (s.memRead a ++ s.memRead (a + 1)) = .ok i := by
  rw [decode_two_bytes] at h
  split at h
  next hi =>
    cases h
    exact hi
  next => cases h

theorem decode_two_bytes_eq_error {s : State} {a : Nat} {r : Reject} (h : decode (s.readBytes a 2) = .error r) :
    decodeWord (s.memRead a ++ s.memRead (a + 1)) = .error r := by
  rw [decode_two_bytes] at h
  split at h
  next => cases h
  next hr =>
    cases h
    exact hr

/-- Settles O6: the two bytes at `pc` are the word the tick fetches. -/
theorem stepRunsTheDecodedInstruction : Obligations.StepRunsTheDecodedInstruction := by
  intro s i hnext hrun hpc hdecode
  exact step_of_decodeWord_ok hrun hnext (fetchWord_in_range hpc) (decode_two_bytes_eq_ok hdecode)

/-- Settles O7: the word named in the rejection is the word fetched. -/
theorem unrecognizedOpcodeOnlyAdvancesPcAndRaisesDiag : Obligations.UnrecognizedOpcodeOnlyAdvancesPcAndRaisesDiag := by
  intro s w hnext hrun hpc hdecode
  have herror := decode_two_bytes_eq_error hdecode
  obtain ⟨-, hw⟩ := (decodeWord_eq_error_iff _ _).1 herror
  cases hw
  rw [step_of_nextEvent hnext]
  exact instrTick_of_decodeWord_error (s := s.beginEvent) hrun
    (s.beginEvent_fetchWord.trans (fetchWord_in_range hpc)) herror

theorem toNat_append_bytes (hi lo : Byte) : (hi ++ lo).toNat = hi.toNat * 256 + lo.toNat := by
  rw [BitVec.toNat_append, ← Nat.shiftLeft_add_eq_or_of_lt lo.isLt, Nat.shiftLeft_eq]

/-- Settles O8: the clauses are the two ranges of `pc`. -/
theorem fetchReadsTwoBytesOrLatchesAFault : Obligations.FetchReadsTwoBytesOrLatchesAFault := by
  intro s
  constructor
  · intro hpc
    exact ⟨_, fetchWord_in_range hpc, toNat_append_bytes _ _⟩
  · intro hpc
    have hfetch := fetchWord_out_of_range hpc
    refine ⟨hfetch, fun hnext hrun => ?_⟩
    rw [step_of_nextEvent hnext]
    exact instrTick_of_fetchWord_none (s := s.beginEvent) hrun (s.beginEvent_fetchWord.trans hfetch)

/-! ### The word the host places (R62, R63; log 15) -/

theorem decodeTableWord_eq_some_iff (nbits w : Nat) (i : Instr) :
    decodeTableWord nbits w = some i ↔ decodeWord (tableWord nbits w) = .ok i := by
  have hbytes := decode_wordBytes (tableWord nbits w) []
  rw [List.append_nil] at hbytes
  rw [decodeTableWord, hbytes]
  cases decodeWord (tableWord nbits w) <;> simp

theorem State.withFetchablePc_pc_inRange (s : State) : s.withFetchablePc.pc.toNat + 1 ≤ 4095 := by
  unfold State.withFetchablePc
  split
  next =>
    rw [State.setPc_pc]
    decide
  next hpc => exact Nat.le_of_not_gt hpc

theorem State.withInstrTickNext_pc (s : State) : s.withInstrTickNext.pc = s.pc := by
  unfold State.withInstrTickNext
  split <;> rfl

theorem State.withFetchWord_eq (s : State) (nbits w : Nat) :
    s.withFetchWord nbits w = { s.withFetchablePc.withInstrTickNext with
      MEM := (s.withFetchWord nbits w).MEM, FAULT := none } := by
  conv_lhs => rw [State.withFetchWord, State.writeBytes_eq]
  rfl

theorem State.withFetchWord_nextEvent (s : State) (nbits w : Nat) :
    (s.withFetchWord nbits w).nextEvent = .instrTick := by
  rw [State.withFetchWord_eq]
  exact nextEvent_withInstrTickNext s.withFetchablePc

theorem State.withFetchWord_pc (s : State) (nbits w : Nat) :
    (s.withFetchWord nbits w).pc = s.withFetchablePc.pc := by
  rw [State.withFetchWord_eq]
  exact State.withInstrTickNext_pc s.withFetchablePc

/-- The placed bytes stand where the fetch reads. -/
theorem State.withFetchWord_memRead (s : State) (nbits w : Nat) {k : Nat}
    (h : k < (wordBytes (tableWord nbits w)).length) :
    (s.withFetchWord nbits w).memRead ((s.withFetchWord nbits w).pc.toNat + k) =
      (wordBytes (tableWord nbits w))[k] := by
  rw [State.withFetchWord_pc, ← State.withInstrTickNext_pc]
  exact State.memRead_writeBytes_add _ _ h

theorem State.withFetchWord_fetchWord (s : State) (nbits w : Nat) :
    (s.withFetchWord nbits w).fetchWord = some (tableWord nbits w) := by
  have hpc : (s.withFetchWord nbits w).pc.toNat + 1 ≤ 4095 := by
    rw [State.withFetchWord_pc]
    exact s.withFetchablePc_pc_inRange
  have hhigh := s.withFetchWord_memRead nbits w (k := 0) (by simp [wordBytes])
  have hlow := s.withFetchWord_memRead nbits w (k := 1) (by simp [wordBytes])
  rw [Nat.add_zero] at hhigh
  rw [fetchWord_in_range hpc, hhigh, hlow]
  exact congrArg some (wordBytes_append _)

/-- Settles O20: the next event is an instruction tick, no fault is latched, and the fetch is the placed word. -/
theorem placedWordIsTheInstructionTheNextStepRuns : Obligations.PlacedWordIsTheInstructionTheNextStepRuns := by
  intro s nbits w i hi
  exact step_of_decodeWord_ok rfl (s.withFetchWord_nextEvent nbits w) (s.withFetchWord_fetchWord nbits w)
    ((decodeTableWord_eq_some_iff nbits w i).1 hi)

end Sys2Proof.Machine
end

section
/-! The statements of spec/40_display.md: 00E0 (R80) and Dxyn (R81), by the two display commands they send. -/

namespace Sys2Proof.Machine

/-! ### The display commands (R31) -/

@[simp] theorem State.dispClear_pc (s : State) : s.dispClear.pc = s.pc := rfl
@[simp] theorem State.dispClear_out (s : State) : s.dispClear.out = s.out ++ [.dispClear] := rfl
@[simp] theorem State.dispClear_display (s : State) : s.dispClear.display = s.display.clear := rfl

section
variable (s : State) (x y : Byte) (rows : List Byte) (n : Nat)

@[simp] theorem State.dispDraw_answer : (s.dispDraw x y rows n).1 = (s.display.draw x y rows n).1 := rfl
@[simp] theorem State.dispDraw_pc : (s.dispDraw x y rows n).2.pc = s.pc := rfl
@[simp] theorem State.dispDraw_out :
    (s.dispDraw x y rows n).2.out = s.out ++ [.dispDraw x y rows (BitVec.ofNat 8 n)] := rfl
@[simp] theorem State.dispDraw_display :
    (s.dispDraw x y rows n).2.display = (s.display.draw x y rows n).2 := rfl

end

/-! ### The surface -/

@[simp] theorem Display.clear_pix (d : Display) (r c : Nat) : d.clear.pix r c = false := rfl
@[simp] theorem Display.clear_width (d : Display) : d.clear.width = d.width := rfl
@[simp] theorem Display.clear_height (d : Display) : d.clear.height = d.height := rfl

/-- A sprite of height 0 reaches no pixel, whatever the rows. -/
@[simp] theorem Display.draw_zero (d : Display) (x y : Byte) (rows : List Byte) :
    d.draw x y rows 0 = (false, d) := rfl

/-! ### 00E0 (R80) -/

/-- Settles O33: the command of 00E0 sets the surface to the cleared one. -/
theorem clsClearsTheDisplay : Obligations.ClsClearsTheDisplay := by
  refine ⟨(decodeWord_eq_ok_iff _ _).2 (lookupWord_encode (i := .cls) rfl), fun s => ?_⟩
  refine ⟨s.advance.dispClear, rfl, ?out, ?pixels, ?width, ?height, ?pc, frame_dispClear s⟩
  case out | pixels | width | height | pc => simp

/-! ### Dxyn (R81) -/

theorem State.beyondMemory_eq_false_iff (s : State) (k : Nat) :
    s.beyondMemory k = false ↔ k = 0 ∨ s.I.toNat + k - 1 ≤ 4095 := by
  rw [← Bool.not_eq_true, State.beyondMemory_iff]
  omega

theorem State.getElem?_readBytes (s : State) (a : Nat) {k r : Nat} (h : r < k) :
    (s.readBytes a k)[r]? = some (s.memRead (a + r)) := by
  have hr : r < (s.readBytes a k).length := by rwa [State.length_readBytes]
  rw [List.getElem?_eq_getElem hr, State.getElem_readBytes]

theorem decodeWord_drw (x y : Reg) {n : Nat} (hn : n < 16) :
    decodeWord (0xD#4 ++ x ++ y ++ BitVec.ofNat 4 n) = .ok (.drw x y n) :=
  (decodeWord_eq_ok_iff _ _).2 (lookupWord_encode (i := .drw x y n) (decide_eq_true hn))

/-- Settles O34: the bounds check of R48 selects the clause; within bounds the one command is followed by the write of
its answer to VF, and beyond them the word latched is the one that decodes to the instruction. -/
theorem drwSendsOneDrawCommandAndSetsVF : Obligations.DrwSendsOneDrawCommandAndSetsVF := by
  intro x y n s hn
  refine ⟨decodeWord_drw x y hn, fun hin => ?inBounds, fun hout => ?beyond⟩
  case inBounds =>
    refine ⟨_, s.readBytes s.I.toNat n, exec_drw_of_inBounds x y ((s.beyondMemory_eq_false_iff n).2 hin),
      s.length_readBytes _ n, fun r hr => s.getElem?_readBytes _ hr, ?out, ?display, ?flag, ?empty, ?pc,
      frame_draw s _ _ _ n _⟩
    case out | display | pc => simp
    case flag => exact State.getV_setV_same _ _ _
    case empty =>
      rintro rfl
      exact ⟨by simp, State.getV_setV_same _ _ _⟩
  case beyond => exact exec_of_beyondMemory (i := .drw x y n) ((s.beyondMemory_iff n).2 hout)

end Sys2Proof.Machine
end

section
/-! The statements of spec/41_control_flow.md: 1nnn (R86) and Bnnn (R88), and the call stack's two users 2nnn (R87) and
00EE (R85), each by one equation an outcome. -/

namespace Sys2Proof.Machine

/-! ### Words and targets -/

theorem decodeWord_encode {i : Instr} (hi : i.wellFormed = true) : decodeWord (encode i) = .ok i :=
  (decodeWord_eq_ok_iff _ _).2 (lookupWord_encode hi)

@[simp] theorem toNat_addr16 (nnn : BitVec 12) : (addr16 nnn).toNat = nnn.toNat :=
  BitVec.toNat_setWidth_of_le (by decide)

/-- The sum of an address and a byte fits in 16 bits, so it is not reduced (41_control_flow.md R88). -/
theorem toNat_addr16_add_setWidth (nnn : BitVec 12) (b : Byte) :
    (addr16 nnn + b.setWidth 16).toNat = nnn.toNat + b.toNat := by
  have hnnn := nnn.isLt
  have hb := b.isLt
  simp only [BitVec.toNat_add, toNat_addr16, BitVec.toNat_setWidth]
  omega

/-! ### 1nnn and Bnnn (R86, R88) -/

/-- Settles O37: `pc` takes the zero-extended address, whatever it is. -/
theorem jpSetsPcToTheAddress : Obligations.JpSetsPcToTheAddress := by
  intro nnn s
  exact ⟨decodeWord_encode (i := .jp nnn) rfl, _, rfl, toNat_addr16 nnn, frame_setPc s _⟩

/-- The offset of Bnnn, the number of its register by division. -/
theorem State.jumpOffset_eq (s : State) (nnn : BitVec 12) :
    s.jumpOffset nnn = if s.straps.jumpAddsVx then s.getV (BitVec.ofNat 4 (nnn.toNat / 256)) else s.getV 0 := by
  rw [State.jumpOffset, topNibble_eq]

/-- Settles O38: the sum fits in 16 bits, and the strap selects the register of its offset. -/
theorem jpoSetsPcToTheAddressPlusTheOffset : Obligations.JpoSetsPcToTheAddressPlusTheOffset := by
  intro nnn s
  refine ⟨decodeWord_encode (i := .jpo nnn) rfl, _, rfl, ?_, frame_setPc s _⟩
  rw [← s.jumpOffset_eq]
  exact toNat_addr16_add_setWidth nnn (s.jumpOffset nnn)

/-! ### What 2nnn and 00EE do (R85, R87) -/

theorem exec_call_of_free {s : State} (nnn : BitVec 12) (h : s.SP.val < 16) :
    exec (.call nnn) s = .next ((s.advance.setStack (s.STK.set s.SP.val (s.pc + 2) h)
      ⟨s.SP.val + 1, Nat.succ_lt_succ h⟩).setPc (addr16 nnn)) := by
  have hpush := (State.push_eq_some_iff s.advance _ s.advance.pc).2 ⟨h, rfl⟩
  simp only [exec, execCall, hpush]
  rfl

theorem exec_call_of_full {s : State} (nnn : BitVec 12) (h : s.SP.val = 16) :
    exec (.call nnn) s = .next (s.latchFault .stackOverflow s.pc (encode (.call nnn))) := by
  have hpush := (State.push_eq_none_iff s.advance s.advance.pc).2 h
  simp only [exec, execCall, hpush]
  rfl

theorem exec_ret_of_used {s : State} (h : 0 < s.SP.val) :
    exec .ret s = .next ((s.advance.setStack s.STK ⟨s.SP.val - 1, by omega⟩).setPc
      (s.STK[s.SP.val - 1]'(by omega))) := by
  have hpop := (State.pop_eq_some_iff s.advance _ _).2 ⟨h, rfl, rfl⟩
  simp only [exec, execRet, hpop]
  rfl

theorem exec_ret_of_empty {s : State} (h : s.SP.val = 0) :
    exec .ret s = .next (s.latchFault .stackUnderflow s.pc (encode .ret)) := by
  have hpop := (State.pop_eq_none_iff s.advance).2 h
  simp only [exec, execRet, hpop]
  rfl

/-- Settles O39: the entry at `SP` is written and no other; a full stack latches the word that decodes to the call. -/
theorem callPushesTheNextAddressAndJumps : Obligations.CallPushesTheNextAddressAndJumps := by
  intro nnn s
  refine ⟨decodeWord_encode (i := .call nnn) rfl, fun hfree => ?free, exec_call_of_full nnn⟩
  refine ⟨_, exec_call_of_free nnn hfree, toNat_addr16 nnn, ?pushed, fun k hk => ?kept, rfl,
    frame_setStack_setPc s _ _ _⟩
  case pushed => exact Vector.getElem?_set_self hfree
  case kept => exact Vector.getElem?_set_ne hfree (Ne.symm hk)

/-- Settles O40: `pc` takes the newest entry as it is; an empty stack latches the word 00EE. -/
theorem retPopsTheNewestEntryIntoPc : Obligations.RetPopsTheNewestEntryIntoPc := by
  refine ⟨decodeWord_encode (i := .ret) rfl, fun s => ⟨fun hused => ?_, exec_ret_of_empty⟩⟩
  exact ⟨_, exec_ret_of_used hused, Vector.getElem?_eq_getElem _, rfl, rfl, frame_setStack_setPc s _ _ _⟩

/-- Settles O41, from what 2nnn and 00EE do (O39, O40): the return pops the very entry the call pushed. -/
theorem returnResumesAfterTheMatchingCall : Obligations.ReturnResumesAfterTheMatchingCall := by
  intro nnn s hfree
  obtain ⟨-, hcall, -⟩ := callPushesTheNextAddressAndJumps nnn s
  obtain ⟨t, ht, -, hpushed, -, htSP, -⟩ := hcall hfree
  refine ⟨t, ht, fun u hSTK hSP => ?_⟩
  have huSP : u.SP.val = s.SP.val + 1 := by rw [hSP, htSP]
  obtain ⟨hret, -⟩ := retPopsTheNewestEntryIntoPc.2 u
  obtain ⟨w, hw, hpopped, -, hwSP, -⟩ := hret (by omega)
  refine ⟨w, hw, ?pc, ?sp⟩
  case pc =>
    have hnewest : u.STK[u.SP.val - 1]? = some (s.pc + 2) := by
      rw [hSTK, huSP, Nat.add_sub_cancel, hpushed]
    exact Option.some.inj (hpopped.symm.trans hnewest)
  case sp =>
    apply Fin.ext
    omega

end Sys2Proof.Machine
end

section
/-! The statements of spec/42_skip.md: 3xnn, 4xnn, 5xy0, 9xy0 (R90 to R93) and Ex9E, ExA1 (R94, R95), each one skip
(R96) on its own condition. -/

namespace Sys2Proof.Machine

/-! ### A skip on a condition (R96) -/

section
variable {i : Instr} {s : State} {c : Bool} (h : exec i s = .next (s.advance.skipIf c))
  {p : Prop} [Decidable p]
include h

theorem exec_of_skipIf_iff (hc : c = true ↔ p) :
    ∃ t, exec i s = .next t ∧ t.pc = (if p then s.pc + 4 else s.pc + 2) ∧ Frame {} s t :=
  ⟨_, h, (pc_skipIf s c).trans (ite_cond_congr (propext hc)), frame_skipIf s c⟩

/-- The skip on the opposite condition, in the order of the clauses of 4xnn, 9xy0 and ExA1. -/
theorem exec_of_skipIf_iff_not (hc : c = true ↔ ¬p) :
    ∃ t, exec i s = .next t ∧ t.pc = (if p then s.pc + 2 else s.pc + 4) ∧ Frame {} s t := by
  rw [← ite_not]
  exact exec_of_skipIf_iff h hc

end

/-! ### Ex9E and ExA1 (R94, R95) -/

/-- The key a byte selects: only its low four bits matter (42_skip.md R94). -/
theorem State.keyDown_lowNibble (s : State) (b : Byte) :
    s.keyDown (lowNibble b) = s.KEYS.getLsbD (b.toNat % 16) := by
  rw [State.keyDown, lowNibble_eq]

/-- Settles O43: both skips test the bit of the mask that the low four bits of Vx number. -/
theorem keySkipsTestTheSelectedKey : Obligations.KeySkipsTestTheSelectedKey := by
  intro x s
  have hkey := s.keyDown_lowNibble (s.getV x)
  refine ⟨?skp, ?sknp⟩
  case skp =>
    refine ⟨decodeWord_encode (i := .skp x) rfl, exec_of_skipIf_iff rfl ?_⟩
    rw [hkey]
  case sknp =>
    refine ⟨decodeWord_encode (i := .sknp x) rfl, exec_of_skipIf_iff_not rfl ?_⟩
    rw [hkey, Bool.not_eq_true', Bool.not_eq_true]

/-! ### 3xnn, 4xnn, 5xy0, 9xy0 (R90 to R93) -/

/-- Settles O42: each is a skip on the comparison of two bytes, which are equal just when their numbers are. -/
theorem registerSkipsTestTheirCondition : Obligations.RegisterSkipsTestTheirCondition := by
  intro x y nn s
  have hequal (a b : Byte) : decide (a = b) = true ↔ a.toNat = b.toNat :=
    decide_eq_true_iff.trans BitVec.toNat_inj.symm
  have hdiffer (a b : Byte) : decide (a ≠ b) = true ↔ ¬a.toNat = b.toNat :=
    decide_eq_true_iff.trans (not_congr BitVec.toNat_inj.symm)
  refine ⟨?seImm, ?sneImm, ?seReg, ?sneReg⟩
  case seImm => exact ⟨decodeWord_encode (i := .seImm x nn) rfl, exec_of_skipIf_iff rfl (hequal _ _)⟩
  case sneImm => exact ⟨decodeWord_encode (i := .sneImm x nn) rfl, exec_of_skipIf_iff_not rfl (hdiffer _ _)⟩
  case seReg => exact ⟨decodeWord_encode (i := .seReg x y) rfl, exec_of_skipIf_iff rfl (hequal _ _)⟩
  case sneReg => exact ⟨decodeWord_encode (i := .sneReg x y) rfl, exec_of_skipIf_iff_not rfl (hdiffer _ _)⟩

end Sys2Proof.Machine
end

section
/-! The statements of spec/43_alu.md: 6xnn, 7xnn, 8xy0 to 8xyE (R98 to R108) and Cxnn (R112). Each meaning ends in one
write of a register, or in a result and then its flag (R110); what is left is the value written. -/

namespace Sys2Proof.Machine

/-! ### The values of flags and results as numbers (R104 to R109) -/

theorem toNat_flagByte (f : Bool) : (flagByte f).toNat = f.toNat := by
  cases f <;> rfl

theorem flagByte_carry (a b : Byte) : flagByte (carry a b) = if a.toNat + b.toNat > 255 then 1 else 0 :=
  ite_cond_congr decide_eq_true_eq

theorem flagByte_noBorrow (a b : Byte) : flagByte (noBorrow a b) = if a.toNat ≥ b.toNat then 1 else 0 :=
  ite_cond_congr decide_eq_true_eq

/-- The difference on integers, which `Byte` takes modulo 256 (43_alu.md R109). -/
theorem toNat_sub_eq_emod (a b : Byte) : ((a - b).toNat : Int) = (a.toNat - b.toNat : Int) % 256 := by
  have hb := b.isLt
  rw [BitVec.toNat_sub]
  omega

/-- The bit a right shift moves out is the remainder of the halving. -/
theorem toNat_flagByte_shiftedOutRight (a : Byte) : (flagByte (shiftedOutRight a)).toNat = a.toNat % 2 := by
  rw [toNat_flagByte, shiftedOutRight, BitVec.getLsbD, Nat.toNat_testBit]
  omega

/-- The bit a left shift moves out is the quotient by 128, since a byte is below 256. -/
theorem toNat_flagByte_shiftedOutLeft (a : Byte) : (flagByte (shiftedOutLeft a)).toNat = a.toNat / 128 := by
  have ha := a.isLt
  rw [toNat_flagByte, shiftedOutLeft, BitVec.getLsbD, Nat.toNat_testBit]
  omega

theorem toNat_ushiftRight_one (a : Byte) : (a >>> 1).toNat = a.toNat / 2 := by
  rw [BitVec.toNat_ushiftRight, Nat.shiftRight_eq_div_pow, pow_one]

theorem toNat_shiftLeft_one (a : Byte) : (a <<< 1).toNat = a.toNat * 2 % 256 := by
  rw [BitVec.toNat_shiftLeft, Nat.shiftLeft_eq, pow_one]

/-! ### 6xnn, 8xy0 and 7xnn (R98 to R100) -/

/-- Settles O44: each is the write of its operand to Vx. -/
theorem loadsWriteTheirOperandToVx : Obligations.LoadsWriteTheirOperandToVx := by
  intro x y nn s
  refine ⟨?ldImm, ?ldReg⟩
  case ldImm =>
    exact ⟨decodeWord_encode (i := .ldImm x nn) rfl, _, rfl, State.getV_setV_same _ x _, rfl, frame_setV s x _⟩
  case ldReg =>
    exact ⟨decodeWord_encode (i := .ldReg x y) rfl, _, rfl, State.getV_setV_same _ x _, rfl, frame_setV s x _⟩

/-- Settles O45: the sum of two bytes is taken modulo 256, and the write of Vx is the only one. -/
theorem addImmediateWrapsAndSetsNoFlag : Obligations.AddImmediateWrapsAndSetsNoFlag := by
  intro x nn s
  refine ⟨decodeWord_encode (i := .addImm x nn) rfl, _, rfl, ?sum, rfl, frame_setV s x _⟩
  case sum => rw [State.getV_setV_same, BitVec.toNat_add]

/-! ### 8xy1, 8xy2, 8xy3 (R101 to R103) -/

/-- Settles O46: each writes to Vx the operation on bytes, which is bit by bit. -/
theorem logicOperationsWorkBitByBit : Obligations.LogicOperationsWorkBitByBit := by
  intro x y s
  refine ⟨?orReg, ?andReg, ?xorReg⟩
  case orReg =>
    refine ⟨decodeWord_encode (i := .orReg x y) rfl, _, rfl, fun k => ?_, rfl, frame_setV s x _⟩
    rw [State.getV_setV_same, BitVec.getLsbD_or]
  case andReg =>
    refine ⟨decodeWord_encode (i := .andReg x y) rfl, _, rfl, fun k => ?_, rfl, frame_setV s x _⟩
    rw [State.getV_setV_same, BitVec.getLsbD_and]
  case xorReg =>
    refine ⟨decodeWord_encode (i := .xorReg x y) rfl, _, rfl, fun k => ?_, rfl, frame_setV s x _⟩
    rw [State.getV_setV_same, BitVec.getLsbD_xor]

/-! ### 8xy4, 8xy5, 8xy7 (R104, R105, R107) -/

/-- Settles O47: the carry of the old operands is written last, over the sum when x = 15. -/
theorem addSetsTheCarryLast : Obligations.AddSetsTheCarryLast := by
  intro x y s
  refine ⟨decodeWord_encode (i := .addReg x y) rfl, _, rfl, fun hx => ?sum, ?carry, rfl,
    frame_setResultThenFlag s x _ _⟩
  case sum => rw [getV_setResultThenFlag _ x _ _ hx, BitVec.toNat_add]
  case carry => rw [getV_VF_setResultThenFlag, flagByte_carry]

/-- What 8xy5 and 8xy7 have in common: the difference of two bytes modulo 256, then no-borrow, written last. -/
theorem exec_of_difference {i : Instr} {s : State} {x : Reg} {a b : Byte}
    (h : exec i s = .next (s.advance.setResultThenFlag x (a - b) (noBorrow a b))) :
    ∃ t, exec i s = .next t ∧ (x ≠ 15 → ((t.getV x).toNat : Int) = (a.toNat - b.toNat : Int) % 256) ∧
      t.getV 15 = (if a.toNat ≥ b.toNat then 1 else 0) ∧ t.pc = s.pc + 2 ∧ Frame { regs := [x, 15] } s t := by
  refine ⟨_, h, fun hx => ?difference, ?noBorrow, rfl, frame_setResultThenFlag s x _ _⟩
  case difference => rw [getV_setResultThenFlag _ x _ _ hx, toNat_sub_eq_emod]
  case noBorrow => rw [getV_VF_setResultThenFlag, flagByte_noBorrow]

/-- Settles O48: 8xy7 is 8xy5 with the operands exchanged. -/
theorem subtractionsSetNoBorrowLast : Obligations.SubtractionsSetNoBorrowLast := by
  intro x y s
  refine ⟨?subReg, ?subnReg⟩
  case subReg => exact ⟨decodeWord_encode (i := .subReg x y) rfl, exec_of_difference rfl⟩
  case subnReg => exact ⟨decodeWord_encode (i := .subnReg x y) rfl, exec_of_difference rfl⟩

/-! ### 8xy6 and 8xyE (R106, R108) -/

/-- Settles O49: the strap selects the value shifted, and the bit that leaves it is written last. -/
theorem shiftsMoveOneBitIntoVF : Obligations.ShiftsMoveOneBitIntoVF := by
  intro x y s v
  have hv : (s.shiftOperand x y).toNat = v := rfl
  refine ⟨?shr, ?shl⟩
  case shr =>
    refine ⟨decodeWord_encode (i := .shr x y) rfl, _, rfl, fun hx => ?half, ?lowBit, rfl,
      frame_setResultThenFlag s x _ _⟩
    case half => rw [getV_setResultThenFlag _ x _ _ hx, toNat_ushiftRight_one, hv]
    case lowBit => rw [getV_VF_setResultThenFlag, toNat_flagByte_shiftedOutRight, hv]
  case shl =>
    refine ⟨decodeWord_encode (i := .shl x y) rfl, _, rfl, fun hx => ?double, ?highBit, rfl,
      frame_setResultThenFlag s x _ _⟩
    case double => rw [getV_setResultThenFlag _ x _ _ hx, toNat_shiftLeft_one, hv]
    case highBit => rw [getV_VF_setResultThenFlag, toNat_flagByte_shiftedOutLeft, hv]

/-! ### Cxnn (R112) -/

/-- Settles O50: Vx takes the byte drawn AND the mask, so no bit outside the mask stays; the draw moves the index on. -/
theorem rndMasksTheRandomByte : Obligations.RndMasksTheRandomByte := by
  intro x nn s
  refine ⟨decodeWord_encode (i := .rnd x nn) rfl, _, rfl, fun k => ?bits, ?outside, rfl, rfl,
    frame_randUsed_setV s x _⟩
  case bits => rw [State.getV_setV_same, BitVec.getLsbD_and, State.rand]
  case outside =>
    rw [State.getV_setV_same, BitVec.and_assoc, BitVec.and_not_self]
    exact BitVec.and_zero

end Sys2Proof.Machine
end

section
/-! The statements of spec/44_index_memory.md: Annn, Fx1E, Fx29 (R113, R114, R116), Fx33 (R117), Fx55 (R118), Fx65
(R119), and the round trip of the last two, each a write of `I` or a block transfer behind its bounds check (R48). -/

namespace Sys2Proof.Machine

/-! ### Annn, Fx1E and Fx29 (R113, R114, R116) -/

/-- The sum of `I` and a byte is taken modulo 65536 (44_index_memory.md R114). -/
theorem toNat_word_add_setWidth (v : Word) (b : Byte) :
    (v + b.setWidth 16).toNat = (v.toNat + b.toNat) % 65536 := by
  rw [BitVec.toNat_add, BitVec.toNat_setWidth_of_le (by decide)]

/-- The glyph addresses of the sixteen digits fit in 16 bits (44_index_memory.md R116). -/
theorem toNat_glyphAddress_lowNibble (b : Byte) :
    (glyphAddress (lowNibble b)).toNat = 0x50 + b.toNat % 16 * 5 := by
  rw [lowNibble_eq, glyphAddress, BitVec.toNat_ofNat, Config.fontBase, Config.glyphBytes]
  omega

/-- Settles O51: each is the write of its value to `I`, and to nothing else. -/
theorem indexInstructionsSetI : Obligations.IndexInstructionsSetI := by
  intro nnn x s
  refine ⟨?ldI, ?addI, ?ldF⟩
  case ldI => exact ⟨decodeWord_encode (i := .ldI nnn) rfl, _, rfl, toNat_addr16 nnn, rfl, frame_setI s _⟩
  case addI =>
    exact ⟨decodeWord_encode (i := .addI x) rfl, _, rfl, toNat_word_add_setWidth s.I _, rfl, frame_setI s _⟩
  case ldF =>
    exact ⟨decodeWord_encode (i := .ldF x) rfl, _, rfl, toNat_glyphAddress_lowNibble _, rfl, frame_setI s _⟩

/-! ### The bounds check by the last byte (R48), and the post-increment after a block transfer (R118, R119) -/

/-- The bounds check of an access whose last byte is `n` above `I`. -/
theorem State.beyondMemory_succ_iff (s : State) (n : Nat) :
    s.beyondMemory (n + 1) = true ↔ s.I.toNat + n > 4095 := by
  rw [State.beyondMemory_iff]
  omega

theorem State.not_beyondMemory_succ {s : State} {n : Nat} (h : s.I.toNat + n ≤ 4095) :
    ¬s.beyondMemory (n + 1) = true :=
  (s.beyondMemory_succ_iff n).not.2 (Nat.not_lt.2 h)

section
variable {m : MayChange} {s t : State} (h : Frame m s t)
include h

theorem Frame.shiftI (k : Nat) : Frame { m with index := true } s (t.shiftI k) :=
  { frame_shiftI k h with index := nofun }

/-- The post-increment counts from the old `I` when the transfer before it left `I` alone. -/
theorem Frame.toNat_I_shiftI (hm : m.index = false) {k : Nat} (hk : s.I.toNat + k ≤ 65535) :
    (t.shiftI k).I.toNat = if s.straps.storeShiftsI then s.I.toNat + k else s.I.toNat := by
  have hI : t.I = s.I := h.index hm
  obtain ⟨hstraps, -⟩ := h.inputs
  rw [Machine.toNat_I_shiftI t k (by rwa [hI]), hI, hstraps]

end

/-! ### Fx33 (R117) -/

theorem exec_ldB_of_inBounds {x : Reg} {s : State} (h : s.I.toNat + 2 ≤ 4095) :
    exec (.ldB x) s = .next (s.advance.writeBytes s.I.toNat (decimalDigits (s.getV x))) :=
  if_neg (State.not_beyondMemory_succ h)

/-- A digit stored at its place in the block; it is no larger than the byte it comes from, so it fits in one. -/
theorem State.toNat_memRead_writeBytes_decimalDigits (s : State) (a : Nat) (b : Byte) {k digit : Nat}
    (hk : (decimalDigits b)[k]? = some (BitVec.ofNat 8 digit)) (hdigit : digit ≤ b.toNat) :
    ((s.writeBytes a (decimalDigits b)).memRead (a + k)).toNat = digit := by
  rw [State.memRead_writeBytes, if_pos (Nat.le_add_right a k), Nat.add_sub_cancel_left, hk, Option.getD_some,
    BitVec.toNat_ofNat]
  exact Nat.mod_eq_of_lt (Nat.lt_of_le_of_lt hdigit b.isLt)

/-- Settles O52: the block stored at `I` is the list of the three digits. -/
theorem ldBStoresTheDecimalDigits : Obligations.LdBStoresTheDecimalDigits := by
  intro x s
  refine ⟨decodeWord_encode (i := .ldB x) rfl, fun hin => ?inBounds, fun hout => ?beyond⟩
  case inBounds =>
    refine ⟨_, exec_ldB_of_inBounds hin, ?hundreds, ?tens, ?ones, State.writeBytes_pc _ _ _,
      frame_writeBytes s _ 3 _ rfl⟩
    case hundreds => exact State.toNat_memRead_writeBytes_decimalDigits (k := 0) _ _ _ rfl (Nat.div_le_self _ _)
    case tens =>
      exact State.toNat_memRead_writeBytes_decimalDigits (k := 1) _ _ _ rfl
        ((Nat.mod_le _ _).trans (Nat.div_le_self _ _))
    case ones => exact State.toNat_memRead_writeBytes_decimalDigits (k := 2) _ _ _ rfl (Nat.mod_le _ _)
  case beyond => exact exec_of_beyondMemory (i := .ldB x) ((s.beyondMemory_succ_iff 2).2 hout)

/-! ### Fx55 (R118) -/

/-- Settles O53: the block stored at `I` is V0 to Vx, and the strap alone decides whether `I` moves past it. -/
theorem storeRegsWritesV0ToVxToMemory : Obligations.StoreRegsWritesV0ToVxToMemory := by
  intro x s
  refine ⟨decodeWord_encode (i := .storeRegs x) rfl, fun hin => ?inBounds, fun hout => ?beyond⟩
  case inBounds =>
    have hexec := exec_storeRegs_of_inBounds hin
    have hframe := frame_writeBytes s s.I.toNat _ _ (s.length_regsUpTo x)
    refine ⟨_, hexec, fun r hr => ?stored, hframe.toNat_I_shiftI rfl (by omega), exec_storeRegs_pc hin hexec,
      hframe.shiftI _⟩
    case stored => rw [exec_storeRegs_memRead hin hexec hr, BitVec.ofNat_toNat, BitVec.setWidth_eq]
  case beyond => exact exec_of_beyondMemory (i := .storeRegs x) ((s.beyondMemory_succ_iff x.toNat).2 hout)

/-! ### Fx65 (R119) -/

@[simp] theorem State.setRegsFrom_pc (s : State) (k : Nat) (bs : List Byte) : (s.setRegsFrom k bs).pc = s.pc := by
  rw [State.setRegsFrom_eq]

@[simp] theorem State.shiftI_getV (s : State) (k : Nat) (r : Reg) : (s.shiftI k).getV r = s.getV r := by
  rw [State.shiftI_eq]
  rfl

theorem exec_loadRegs_of_inBounds {x : Reg} {s : State} (h : s.I.toNat + x.toNat ≤ 4095) :
    exec (.loadRegs x) s =
      .next ((s.advance.setRegsFrom 0 (s.readBytes s.I.toNat (x.toNat + 1))).shiftI (x.toNat + 1)) :=
  if_neg (State.not_beyondMemory_succ h)

/-- The registers after the block read from address `a` is loaded into V0 to Vx. -/
theorem State.getV_setRegsFrom_readBytes (s : State) (a : Nat) (x r : Reg) :
    (s.advance.setRegsFrom 0 (s.readBytes a (x.toNat + 1))).getV r =
      if r.toNat ≤ x.toNat then s.memRead (a + r.toNat) else s.getV r := by
  have hlen := s.length_readBytes a (x.toNat + 1)
  have hx := x.isLt
  rw [State.getV_setRegsFrom _ _ _ _ (by omega), if_pos (Nat.zero_le _), Nat.sub_zero]
  split
  case isTrue hr => rw [s.getElem?_readBytes a (Nat.lt_succ_of_le hr), Option.getD_some]
  case isFalse hr =>
    rw [List.getElem?_eq_none (by omega)]
    rfl

/-- Settles O54: registers up to x take the block read at `I`, which lies within the sixteen registers. -/
theorem loadRegsReadsV0ToVxFromMemory : Obligations.LoadRegsReadsV0ToVxFromMemory := by
  intro x s
  refine ⟨decodeWord_encode (i := .loadRegs x) rfl, fun hin => ?inBounds, fun hout => ?beyond⟩
  case inBounds =>
    have hframe := frame_loadRegs s x _ (s.length_readBytes s.I.toNat _)
    refine ⟨_, exec_loadRegs_of_inBounds hin, fun r => ?loaded, hframe.toNat_I_shiftI rfl (by omega), ?pc,
      hframe.shiftI _⟩
    case loaded => rw [State.shiftI_getV, State.getV_setRegsFrom_readBytes]
    case pc => rw [State.shiftI_pc, State.setRegsFrom_pc, State.advance_pc]
  case beyond => exact exec_of_beyondMemory (i := .loadRegs x) ((s.beyondMemory_succ_iff x.toNat).2 hout)

/-! ### The round trip (R119) -/

/-- Settles O55, from what Fx55 and Fx65 do (O53, O54): the load reads the very bytes the store wrote. -/
theorem storeThenLoadRestoresTheRegisters : Obligations.StoreThenLoadRestoresTheRegisters := by
  intro x s hin
  obtain ⟨-, hstore, -⟩ := storeRegsWritesV0ToVxToMemory x s
  obtain ⟨t, ht, hstored, -⟩ := hstore hin
  refine ⟨t, ht, fun u hmem hI => ?_⟩
  obtain ⟨-, hload, -⟩ := loadRegsReadsV0ToVxFromMemory x u
  obtain ⟨w, hw, hloaded, -⟩ := hload (by rwa [hI])
  refine ⟨w, hw, fun r hr => ?_⟩
  calc w.getV r = u.memRead (u.I.toNat + r.toNat) := by rw [hloaded, if_pos hr]
    _ = t.memRead (s.I.toNat + r.toNat) := by rw [hI, hmem]
    _ = s.getV r := hstored r hr

end Sys2Proof.Machine
end

section
/-! The statements of spec/45_timer_key.md: Fx07, Fx15, Fx18 (R121, R123, R124), each one write, and the key wait Fx0A
(R122), by the least pressed key. -/

namespace Sys2Proof.Machine

/-! ### Fx07, Fx15 and Fx18 (R121, R123, R124) -/

theorem State.soundActive_iff (s : State) : s.soundActive = true ↔ s.ST ≠ 0 := by
  rw [State.soundActive, decide_eq_true_iff, gt_iff_lt, Nat.pos_iff_ne_zero]
  exact BitVec.toNat_ne_iff_ne (y := 0)

/-- Settles O57: each is the write of its value to Vx, to the delay timer or to the sound timer. -/
theorem timerInstructionsMoveTheTimers : Obligations.TimerInstructionsMoveTheTimers := by
  intro x s
  refine ⟨?ldVxDT, ?ldDTVx, ?ldSTVx⟩
  case ldVxDT =>
    exact ⟨decodeWord_encode (i := .ldVxDT x) rfl, _, rfl, State.getV_setV_same _ x _, rfl, frame_setV s x _⟩
  case ldDTVx =>
    exact ⟨decodeWord_encode (i := .ldDTVx x) rfl, _, rfl, State.setDT_DT _ _, rfl, frame_setDT s _⟩
  case ldSTVx =>
    exact ⟨decodeWord_encode (i := .ldSTVx x) rfl, _, rfl, State.setST_ST _ _, State.soundActive_iff _, rfl,
      frame_setST s _⟩

/-! ### Fx0A (R122) -/

/-- Moving `pc` on and back again is no change, at the top of the address space too. -/
theorem State.advance_setPc_back (s : State) : s.advance.setPc (s.advance.pc - 2) = s := by
  rw [State.advance_pc, BitVec.add_sub_cancel]
  rfl

theorem exec_ldVxK_of_no_key {x : Reg} {s : State} (h : s.KEYS = 0) : exec (.ldVxK x) s = .next s := by
  have hkey : lowestKey s.advance.KEYS = none := (lowestKey_eq_none_iff _).2 h
  calc exec (.ldVxK x) s = .next (s.advance.setPc (s.advance.pc - 2)) := by simp only [exec, execLdVxK, hkey]
    _ = .next s := by rw [State.advance_setPc_back]

theorem exec_ldVxK_of_lowestKey {x : Reg} {s : State} {k : Nat} (h : lowestKey s.KEYS = some k) :
    exec (.ldVxK x) s = .next (s.advance.setV x (BitVec.ofNat 8 k)) := by
  simp only [exec, execLdVxK, State.advance_KEYS, h]

/-- Settles O58: the wait moves `pc` back to its opcode, and the number of the least pressed key fits in a byte. -/
theorem keyWaitRepeatsUntilAKeyIsDown : Obligations.KeyWaitRepeatsUntilAKeyIsDown := by
  intro x s
  refine ⟨decodeWord_encode (i := .ldVxK x) rfl, exec_ldVxK_of_no_key, fun hdown => ?keyDown⟩
  case keyDown =>
    obtain ⟨k, hk⟩ := Option.ne_none_iff_exists'.1 (mt (lowestKey_eq_none_iff s.KEYS).1 hdown)
    obtain ⟨hpressed, hlt, hleast⟩ := (lowestKey_eq_some_iff s.KEYS k).1 hk
    refine ⟨_, k, exec_ldVxK_of_lowestKey hk, ?number, hlt, hpressed, hleast, rfl, frame_setV s x _⟩
    case number =>
      rw [State.getV_setV_same, BitVec.toNat_ofNat]
      exact Nat.mod_eq_of_lt (hlt.trans (by decide))

end Sys2Proof.Machine
end

section
/-! The statements of spec/60_exceptions.md on faults: which instruction raises which (R131, R132), that the tick which
raises one commits the latch alone (R133), and that only a reset clears it (R134). -/

namespace Sys2Proof.Machine

/-! ### An instruction faults exactly on its condition (R131, R132) -/

theorem exec_of_raisedBy {c : Cause} {i : Instr} {s : State} (h : c.RaisedBy i s) :
    exec i s = .next (s.latchFault c s.pc (encode i)) := by
  cases c with
  | stackOverflow =>
    obtain ⟨hsp, nnn, rfl⟩ := h
    exact exec_call_of_full nnn hsp
  | stackUnderflow =>
    obtain ⟨hsp, rfl⟩ := h
    exact exec_ret_of_empty hsp
  | dataAddress => exact exec_of_beyondMemory h
  | fetchAddress => exact h.elim

/-- Only a return, a call and an access at `I` beyond memory raise a cause. -/
theorem Cause.raisedBy_iff_of_ne {i : Instr} (hcall : ∀ nnn, i ≠ .call nnn) (hret : i ≠ .ret) (c : Cause)
    (s : State) : c.RaisedBy i s ↔ c = .dataAddress ∧ s.beyondMemory (bytesAtI i) = true := by
  cases c <;> simp [Cause.RaisedBy, hcall, hret]

theorem Cause.raisedBy_call_iff (c : Cause) (nnn : BitVec 12) (s : State) :
    c.RaisedBy (.call nnn) s ↔ c = .stackOverflow ∧ s.SP.val = 16 := by
  cases c <;> simp [Cause.RaisedBy, bytesAtI, State.beyondMemory_iff]

theorem Cause.raisedBy_ret_iff (c : Cause) (s : State) :
    c.RaisedBy .ret s ↔ c = .stackUnderflow ∧ s.SP.val = 0 := by
  cases c <;> simp [Cause.RaisedBy, bytesAtI, State.beyondMemory_iff]

section
variable {i : Instr} {s t : State} (hrun : s.running) (h : exec i s = .next t)
include hrun h

theorem exec_FAULT_eq_some_iff (c : Cause) : t.FAULT = some c ↔ c.RaisedBy i s := by
  constructor
  · intro hc
    obtain ⟨c', hc', e⟩ | ⟨u, e, hkept, -⟩ := exec_latchesItsCauseOrKeepsWf i s <;> rw [e] at h <;> cases h
    · cases hc
      exact hc'
    · rw [hkept, hrun] at hc
      cases hc
  · intro hc
    rw [exec_of_raisedBy hc] at h
    cases h
    rfl

/-- The latch after an instruction that has one cause it can raise. -/
theorem exec_FAULT_eq_ite {c : Cause} {p : Prop} [Decidable p] (hp : ∀ c', c'.RaisedBy i s ↔ c' = c ∧ p) :
    t.FAULT = if p then some c else none := by
  apply Option.ext
  intro c'
  rw [exec_FAULT_eq_some_iff hrun h, hp]
  split
  case isTrue hc => simp [hc, eq_comm]
  case isFalse hc => simp [hc]

section
variable (hcall : ∀ nnn, i ≠ .call nnn) (hret : i ≠ .ret)
include hcall hret

/-- The latch after an instruction that accesses bytes at `I`. -/
theorem exec_FAULT_of_access {p : Prop} [Decidable p] (hp : s.beyondMemory (bytesAtI i) = true ↔ p) :
    t.FAULT = if p then some .dataAddress else none :=
  exec_FAULT_eq_ite hrun h fun c => by rw [Cause.raisedBy_iff_of_ne hcall hret, hp]

theorem exec_FAULT_of_no_access (hbytes : bytesAtI i = 0) : t.FAULT = none :=
  exec_FAULT_of_access hrun h hcall hret (p := False) (by simp [hbytes, State.beyondMemory_iff])

end

end

/-- Settles O11: the rows of the fault table are the conditions on which an instruction raises its cause. -/
theorem instructionsFaultExactlyOnTheirConditions : Obligations.InstructionsFaultExactlyOnTheirConditions := by
  intro i s hrun
  obtain ⟨t, h⟩ := exec_answers_next i s
  refine ⟨t, h, ?_⟩
  cases i with
  | call nnn => exact exec_FAULT_eq_ite hrun h fun c => c.raisedBy_call_iff nnn s
  | ret => exact exec_FAULT_eq_ite hrun h fun c => c.raisedBy_ret_iff s
  | ldB x => exact exec_FAULT_of_access hrun h nofun nofun (s.beyondMemory_succ_iff 2)
  | storeRegs x => exact exec_FAULT_of_access hrun h nofun nofun (s.beyondMemory_succ_iff x.toNat)
  | loadRegs x => exact exec_FAULT_of_access hrun h nofun nofun (s.beyondMemory_succ_iff x.toNat)
  | drw x y n => exact exec_FAULT_of_access hrun h nofun nofun (s.beyondMemory_iff n)
  | _ => exact exec_FAULT_of_no_access hrun h nofun nofun rfl

/-! ### The tick that raises a fault (R133) -/

theorem fetchWord_eq_some {s : State} {w : Word} (h : s.fetchWord = some w) :
    w = s.memRead s.pc.toNat ++ s.memRead (s.pc.toNat + 1) := by
  unfold State.fetchWord at h
  split at h
  · cases h
  · exact (Option.some.inj h).symm

/-- A running core's tick that ends with a fault is the latch at `pc` over the state before: of a fetch fault, or of a
cause the instruction fetched raises. -/
theorem instrTick_eq_latchFault {s t : State} {c : Cause} (hrun : s.running) (h : instrTick s = .next t)
    (hc : t.FAULT = some c) : ∃ w, t = s.latchFault c s.pc w ∧
      if c = .fetchAddress then w = 0 else w = s.memRead s.pc.toNat ++ s.memRead (s.pc.toNat + 1) := by
  obtain ⟨hfault, e⟩ | ⟨_, _, e⟩ | ⟨w, i, _, hw, hi, e⟩ | ⟨w, _, _, _, e⟩ := instrTick_cases s <;> rw [e] at h
  · exact absurd hrun hfault
  · cases h
    cases hc
    exact ⟨0, rfl, rfl⟩
  · have hraised := (exec_FAULT_eq_some_iff hrun h c).1 hc
    have hne : c ≠ .fetchAddress := by
      rintro rfl
      exact hraised
    have hencode : encode i = w := encode_of_lookupWord ((decodeWord_eq_ok_iff w i).1 hi)
    rw [exec_of_raisedBy hraised, hencode] at h
    cases h
    refine ⟨w, rfl, ?_⟩
    rw [if_neg hne]
    exact fetchWord_eq_some hw
  · cases h
    exact nomatch hrun.symm.trans hc

/-- Settles O10: the latch is written over the state the step's own bookkeeping leaves. -/
theorem faultingTickCommitsNothingButTheLatch : Obligations.FaultingTickCommitsNothingButTheLatch := by
  intro s t c hnext hrun h hc
  rw [step_of_nextEvent hnext] at h
  obtain ⟨w, rfl, hw⟩ := instrTick_eq_latchFault (s := s.beginEvent) hrun h hc
  exact ⟨rfl, hw⟩

/-! ### What clears the latch (R134) -/

/-- Settles O31: in the fault state an instruction tick is ignored, and a new mask and a timer tick write no latch. -/
theorem onlyAResetClearsTheFaultLatch : Obligations.OnlyAResetClearsTheFaultLatch := by
  intro s t c hfault h
  cases hnext : s.nextEvent with
  | reset => exact .inl rfl
  | preload font image => exact .inr (.inl ⟨font, image, rfl⟩)
  | keys mask | timerTick =>
    rw [step_of_nextEvent hnext] at h
    cases h
    exact .inr (.inr ⟨hfault, rfl, rfl⟩)
  | instrTick =>
    rw [faultStateIgnoresInstructionTicks s c hnext hfault] at h
    cases h
    exact .inr (.inr ⟨hfault, rfl, rfl⟩)

end Sys2Proof.Machine
end

section
/-! The statements of spec/60_exceptions.md on the order of events in a host iteration (R135) and on the timers (R141,
R144), each a run of scheduled events, one step at a time. -/

namespace Sys2Proof.Machine

theorem step_of_schedule {s : State} {e : HostEvent} {rest : List HostEvent} (h : s.schedule = e :: rest) :
    step s = deliver e s.beginEvent :=
  step_of_nextEvent (nextEvent_of_schedule h)

theorem State.beginEvent_schedule_of_cons {s : State} {e : HostEvent} {rest : List HostEvent}
    (h : s.schedule = e :: rest) : s.beginEvent.schedule = rest := by
  rw [State.beginEvent_schedule, h, List.tail_cons]

/-! ### The timer tick (R141, R144) -/

/-- Settles O13: the tick writes the two timers and no other field, whatever the state. -/
theorem timerTickStepsBothTimersAndNothingElse : Obligations.TimerTickStepsBothTimersAndNothingElse := by
  intro s hnext
  exact ⟨timerTick s.beginEvent, step_of_nextEvent hnext, toNat_timerDown s.DT, toNat_timerDown s.ST, rfl⟩

theorem toNat_timerDown_iterate (m : Nat) (b : Byte) : (timerDown^[m] b).toNat = b.toNat - m := by
  induction m generalizing b with
  | zero => rfl
  | succ m ih => rw [Function.iterate_succ_apply, ih, toNat_timerDown, Nat.sub_sub, Nat.add_comm]

/-- The state after `m` timer ticks, at least one, with `rest` left on the schedule (logs 1 and 13). -/
def State.afterTimerTicks (s : State) (m : Nat) (rest : List HostEvent) : State :=
  { s with DT := timerDown^[m] s.DT, ST := timerDown^[m] s.ST, schedule := rest, out := [],
           eventIndex := s.eventIndex + m }

/-- The ticks after the first see what it left. -/
theorem timerTick_beginEvent_afterTimerTicks (s : State) (m : Nat) (rest : List HostEvent) :
    (timerTick s.beginEvent).afterTimerTicks m rest = s.afterTimerTicks (m + 1) rest := by
  have hindex : s.eventIndex + 1 + m = s.eventIndex + (m + 1) := by omega
  rw [State.afterTimerTicks, State.afterTimerTicks, ← hindex]
  rfl

theorem run_timerTicks (m : Nat) {s : State} {rest : List HostEvent}
    (h : s.schedule = List.replicate (m + 1) .timerTick ++ rest) :
    Host.Core.run core (m + 1) s = .next (s.afterTimerTicks (m + 1) rest) := by
  induction m generalizing s with
  | zero =>
    have htail : s.beginEvent.schedule = rest := State.beginEvent_schedule_of_cons h
    rw [run_succ_of_step 0 (step_of_schedule h), ← htail]
    rfl
  | succ m ih =>
    have htail := State.beginEvent_schedule_of_cons h
    rw [run_succ_of_step _ (step_of_schedule h), ih (s := timerTick s.beginEvent) htail,
      timerTick_beginEvent_afterTimerTicks]

/-- Settles O14: a timer after m ticks is m applications of one tick's step. -/
theorem timersCountDownToZeroAndStay : Obligations.TimersCountDownToZeroAndStay := by
  intro m s rest h
  cases m with
  | zero => exact ⟨s, rfl, rfl, rfl, nofun⟩
  | succ m =>
    exact ⟨_, run_timerTicks m h, toNat_timerDown_iterate (m + 1) s.DT, toNat_timerDown_iterate (m + 1) s.ST,
      fun _ => rfl⟩

/-! ### The order within a host iteration (R135) -/

/-- A scheduled event and then an instruction tick: the instruction runs in the state the event leaves. -/
theorem run_event_then_instruction {s u t : State} {rest : List HostEvent} {i : Instr}
    (hevent : step s = .next u) (hsched : u.schedule = .instrTick :: rest) (hrun : u.running)
    (hpc : u.pc.toNat + 1 ≤ 4095) (hdecode : decode (u.readBytes u.pc.toNat 2) = .ok (i, []))
    (hexec : exec i u.beginEvent = .next t) : Host.Core.run core 2 s = .next t := by
  have hstep : step u = .next t :=
    (stepRunsTheDecodedInstruction u i (nextEvent_of_schedule hsched) hrun hpc hdecode).trans hexec
  rw [run_succ_of_step 1 hevent, run_succ_of_step 0 hstep]
  rfl

/-- Settles O18: the Fx07 runs in the state the timer tick leaves. -/
theorem timerTickPrecedesTheInstructionOfItsIteration : Obligations.TimerTickPrecedesTheInstructionOfItsIteration := by
  intro s x rest hsched hrun hpc hdecode
  have hrest : (timerTick s.beginEvent).schedule = .instrTick :: rest := State.beginEvent_schedule_of_cons hsched
  obtain ⟨⟨-, t, hexec, hVx, -, hframe⟩, -⟩ :=
    timerInstructionsMoveTheTimers x (timerTick s.beginEvent).beginEvent
  obtain ⟨-, -, hschedule, -⟩ := hframe.inputs
  refine ⟨t, run_event_then_instruction (step_of_schedule hsched) hrest hrun hpc hdecode hexec, ?delay, ?schedule⟩
  case delay =>
    rw [hVx]
    exact toNat_timerDown s.DT
  case schedule => exact hschedule.trans (State.beginEvent_schedule_of_cons hrest)

/-- Settles O59: the Ex9E runs in the state the new mask leaves. -/
theorem newMaskPrecedesTheInstructionOfItsIteration : Obligations.NewMaskPrecedesTheInstructionOfItsIteration := by
  intro s x mask rest hsched hrun hpc hdecode
  have hrest : (s.beginEvent.setKeys mask).schedule = .instrTick :: rest :=
    State.beginEvent_schedule_of_cons hsched
  obtain ⟨⟨-, t, hexec, hskip, hframe⟩, -⟩ :=
    keySkipsTestTheSelectedKey x (s.beginEvent.setKeys mask).beginEvent
  obtain ⟨-, hkeys, hschedule, -⟩ := hframe.inputs
  exact ⟨t, run_event_then_instruction (step_of_schedule hsched) hrest hrun hpc hdecode hexec, hskip, hkeys,
    hschedule.trans (State.beginEvent_schedule_of_cons hrest)⟩

end Sys2Proof.Machine
end

section
/-! The statements of spec/60_exceptions.md on `DispDraw` (R148), by the pixels a sprite's set bits reach: each flips,
and no other. -/

namespace Sys2Proof.Machine

/-! ### The pixels of a draw command (R148) -/

/-- The pixels the set bits of a sprite reach from its wrapped origin. -/
def Display.drawTargets (d : Display) (x y : Byte) (rows : List Byte) (h : Nat) : List (Nat × Nat) :=
  d.targets (x.toNat % d.width) (y.toNat % d.height) (rows.take h)

theorem Display.draw_eq_xorPixels (d : Display) (x y : Byte) (rows : List Byte) (h : Nat) :
    d.draw x y rows h = d.xorPixels (d.drawTargets x y rows h) := rfl

/-- Which pixels a sprite reaches is a matter of the surface's size alone. -/
theorem Display.mem_drawTargets_congr {d e : Display} (hw : e.width = d.width) (hh : e.height = d.height)
    (x y : Byte) (rows : List Byte) (h : Nat) (q : Nat × Nat) :
    q ∈ e.drawTargets x y rows h ↔ q ∈ d.drawTargets x y rows h := by
  simp only [Display.drawTargets, Display.mem_targets, hw, hh]

/-- The sprite bit of a pixel on the surface, 0 below the last row of the sprite. -/
theorem Display.mem_targets_iff_getD (d : Display) (x0 y0 : Nat) (rows : List Byte) {r c : Nat} (hr : r < d.height)
    (hc : c < d.width) :
    (r, c) ∈ d.targets x0 y0 rows ↔
      ((y0 ≤ r ∧ x0 ≤ c) ∧ c - x0 < 8) ∧ ((rows[r - y0]?).getD 0).getLsbD (7 - (c - x0)) = true := by
  rw [Display.mem_targets]
  by_cases hrow : r - y0 < rows.length
  · rw [List.getElem?_eq_getElem hrow, Option.getD_some]
    simp only [hrow, hr, hc, exists_true_left, true_and, spriteBit, and_assoc]
    refine and_congr_right fun _ => and_congr_right fun hx => and_congr_left fun _ => ?_
    omega
  · rw [List.getElem?_eq_none (Nat.le_of_not_lt hrow)]
    simp [hrow]

section
variable {d : Display} (hd : d.wf)
include hd

theorem Display.mem_lit_draw (x y : Byte) (rows : List Byte) (h : Nat) (q : Nat × Nat) :
    q ∈ (d.draw x y rows h).2.lit ↔ if q ∈ d.drawTargets x y rows h then q ∉ d.lit else q ∈ d.lit := by
  rw [Display.draw_eq_xorPixels]
  exact (Display.xorPixels_spec hd.1 (d.targets_nodup _ _ _)).1 q

theorem Display.draw_answer_iff (x y : Byte) (rows : List Byte) (h : Nat) :
    (d.draw x y rows h).1 = true ↔ ∃ q ∈ d.drawTargets x y rows h, q ∈ d.lit := by
  rw [Display.draw_eq_xorPixels]
  exact (Display.xorPixels_spec hd.1 (d.targets_nodup _ _ _)).2

theorem Display.pix_draw (x y : Byte) (rows : List Byte) (h r c : Nat) :
    (d.draw x y rows h).2.pix r c = (d.pix r c ^^ decide ((r, c) ∈ d.drawTargets x y rows h)) := by
  rw [Bool.eq_iff_iff, Display.pix_eq_true_iff, Display.mem_lit_draw hd]
  by_cases hq : (r, c) ∈ d.drawTargets x y rows h
  · simp [hq, ← Display.pix_eq_true_iff]
  · simp [hq]

/-- A pixel that goes from on to off is one that was on and that the sprite reaches. -/
theorem Display.draw_answer_iff_pix (x y : Byte) (rows : List Byte) (h : Nat) :
    (d.draw x y rows h).1 = true ↔ ∃ r c, d.pix r c = true ∧ (d.draw x y rows h).2.pix r c = false := by
  rw [Display.draw_answer_iff hd, Prod.exists]
  refine exists_congr fun r => exists_congr fun c => ?_
  rw [Display.pix_draw hd, ← Display.pix_eq_true_iff, and_comm]
  refine and_congr_right fun hon => ?_
  simp [hon]

end

/-- Settles O35: a pixel flips exactly when the sprite reaches it, and it reaches it exactly when its bit is set. -/
theorem drawXorsTheSpriteAndReportsCollision : Obligations.DrawXorsTheSpriteAndReportsCollision := by
  intro d x y rows hd drawn x0 y0
  refine ⟨fun r c hr hc => ?pixel, Display.draw_answer_iff_pix hd x y rows _, d.draw_size x y rows _⟩
  case pixel =>
    rw [Display.pix_draw hd, Display.drawTargets, List.take_length]
    congr 1
    rw [Bool.eq_iff_iff, decide_eq_true_iff, d.mem_targets_iff_getD _ _ rows hr hc]
    simp only [Bool.and_eq_true, decide_eq_true_iff]
    rfl

/-! ### Drawing twice (R148) -/

/-- Canonical surfaces of one size with the same pixels on are the same surface. -/
theorem Display.eq_of_pix_eq {d e : Display} (hd : d.wf) (he : e.wf) (hw : d.width = e.width)
    (hh : d.height = e.height) (hpix : ∀ r c, d.pix r c = e.pix r c) : d = e := by
  have irrefl : Std.Irrefl pixelBefore := ⟨fun p hp => by simp [pixelBefore] at hp⟩
  have antisymm : Std.Antisymm pixelBefore := ⟨fun p q hpq hqp => by
    simp only [pixelBefore] at hpq hqp
    omega⟩
  have hmem : ∀ q, q ∈ d.lit ↔ q ∈ e.lit := by
    rintro ⟨r, c⟩
    rw [← Display.pix_eq_true_iff, ← Display.pix_eq_true_iff, hpix]
  have hlit : d.lit = e.lit := hd.1.eq_of_mem_iff he.1 hmem
  cases d
  cases e
  congr

/-- Settles O36: the two commands reach the same pixels, and a pixel XORed twice with one bit is as it was. -/
theorem drawingTwiceRestoresTheSurface : Obligations.DrawingTwiceRestoresTheSurface := by
  intro d x y rows h hd
  have honce := Display.draw_wf hd x y rows h
  obtain ⟨hw, hh⟩ := d.draw_size x y rows h
  obtain ⟨hw', hh'⟩ := (d.draw x y rows h).2.draw_size x y rows h
  refine Display.eq_of_pix_eq (Display.draw_wf honce x y rows h) hd (hw'.trans hw) (hh'.trans hh) fun r c => ?_
  simp only [Display.pix_draw honce, Display.pix_draw hd, Display.mem_drawTargets_congr hw hh, Bool.xor_assoc,
    Bool.xor_self, Bool.xor_false]

end Sys2Proof.Machine
end

section
/-! The statements of spec/70_reset_and_hazards.md: the reset event (R160), and the memory and the core a preload leaves
(R162). -/

namespace Sys2Proof.Machine

/-! ### The reset event (R160) -/

@[simp] theorem State.resetCore_getV (s : State) (r : Reg) : s.resetCore.getV r = 0 := by
  simp [State.getV, State.resetCore]

/-- Settles O12: the reset writes every value but the straps and memory, which taking the event off the schedule keeps
too. -/
theorem resetEventRestoresTheCore : Obligations.ResetEventRestoresTheCore := by
  intro s hnext
  refine ⟨s.beginEvent.resetCore, step_of_nextEvent hnext, rfl, State.resetCore_getV _, rfl, rfl, rfl, rfl, rfl, rfl,
    ?straps, fun a => ?memory⟩
  case straps => rw [State.resetCore_straps, State.beginEvent_straps]
  case memory => rw [State.resetCore_memRead, State.beginEvent_memRead]

/-! ### The preload (R162) -/

/-- Memory of a new start holds `MEM_INIT` alone (log 4). -/
@[simp] theorem State.freshMemory_memRead (s : State) (a : Nat) :
    s.freshMemory.memRead a = Config.memInit (s.memEpoch + 1) a := rfl

/-- A byte outside a block just written. -/
theorem State.memRead_writeBytes_of_outside (s : State) {a k : Nat} {bs : List Byte}
    (h : ¬(a ≤ k ∧ k < a + bs.length)) : (s.writeBytes a bs).memRead k = s.memRead k := by
  rw [State.memRead_writeBytes]
  split
  case isTrue hle => rw [List.getElem?_eq_none (by omega), Option.getD_none]
  case isFalse => rfl

section
variable (s : State) (font : Vector Byte 80) (image : List Byte)

/-- The image, which begins above the font, leaves the font in place. -/
theorem memRead_preloaded_font {k : Nat} (h : k < 80) :
    ((s.freshMemory.writeBytes Config.fontBase font.toList).writeBytes Config.romBase image).memRead
      (Config.fontBase + k) = font[k] := by
  have hbelow : ¬(Config.romBase ≤ Config.fontBase + k ∧ Config.fontBase + k < Config.romBase + image.length) := by
    simp only [Config.romBase, Config.fontBase]
    omega
  have hfont : k < font.toList.length := by simpa using h
  rw [State.memRead_writeBytes_of_outside _ hbelow, State.memRead_writeBytes_add _ _ hfont, Vector.getElem_toList]

theorem memRead_preloaded_outside {a : Nat} (hfont : ¬(Config.fontBase ≤ a ∧ a < Config.fontBase + 80))
    (himage : ¬(Config.romBase ≤ a ∧ a < Config.romBase + image.length)) :
    ((s.freshMemory.writeBytes Config.fontBase font.toList).writeBytes Config.romBase image).memRead a =
      Config.memInit (s.memEpoch + 1) a := by
  rw [State.memRead_writeBytes_of_outside _ himage, State.memRead_writeBytes_of_outside _ (by simpa using hfont),
    State.freshMemory_memRead]

end

/-- Settles O17: the reset keeps the memory that the font and the image were written to, and sets the rest of the
core. -/
theorem preloadPlacesTheFontAndResetsTheCore : Obligations.PreloadPlacesTheFontAndResetsTheCore := by
  intro s font image hnext hlen
  refine ⟨_, (step_of_nextEvent hnext).trans (preload_of_le _ font hlen), fun k hk => ?font,
    fun a hfont himage => ?outside, rfl, State.resetCore_getV _, rfl, rfl, rfl, rfl, rfl, ?straps⟩
  case font =>
    rw [State.resetCore_memRead]
    exact memRead_preloaded_font s.beginEvent font image hk
  case outside =>
    rw [State.resetCore_memRead]
    exact memRead_preloaded_outside s.beginEvent font image hfont himage
  case straps =>
    rw [State.resetCore_straps, State.writeBytes_straps, State.writeBytes_straps, State.freshMemory_straps,
      State.beginEvent_straps]

end Sys2Proof.Machine
end
